-- ==== Sys2Proof/Word.lean ====
section
/-! DEFINITION. The widths of the block (spec/00_scope.md R4, spec/30_encoding.md R70): every word the rules shift,
mask or compare is a bit vector of a fixed width; the engine's register block is opaque. The widths of R4 are the first entries of Config; each word type takes its own. -/

namespace Sys2Proof

namespace Config

/-- ADDR_W, the width of a CPU address (R4, D3). -/
abbrev addrW : Nat := 16

/-- HOST_W, the width of a host memory address (R4, D4). -/
abbrev hostW : Nat := 64

/-- CYC_W, the width of every cycle counter and cycle operand (R4, D5). -/
abbrev cycW : Nat := 32

/-- CW_W, the width of a command word (R4, D6). -/
abbrev cwW : Nat := 128

/-- RES_W, the width of the result register (R4, D6). -/
abbrev resW : Nat := 32

end Config

/-- One byte: the width of every memory and port access (R48). -/
abbrev Byte := BitVec 8

/-- A CPU address or a port address, ADDR_W = 16 bits (R4, R42). -/
abbrev Addr := BitVec Config.addrW

/-- A host memory address, HOST_W = 64 bits (R4). -/
abbrev HostAddr := BitVec Config.hostW

/-- A handler id, 64 bits (R23). -/
abbrev HandlerId := BitVec 64

/-- A cycle counter or cycle operand, CYC_W = 32 bits (R4, R206). -/
abbrev Cycles := BitVec Config.cycW

/-- The result register of port CMD, RES_W = 32 bits (R4, R17). -/
abbrev Result := BitVec Config.resW

/-- A command word, CW_W = 128 bits (R70). -/
abbrev CommandWord := BitVec Config.cwW

/-- The engine's opaque register context, the type of RB and of a WCTX that is not POISON (R15, R18). The bits of the
context are held as one number of no fixed width, since the spec gives the context no width; no rule of the block
looks inside it (R27). Log entry 7. -/
structure Ctx where
  image : Nat
  deriving DecidableEq, Repr, Inhabited

/-- ZERO_CTX, the all-zero context (R32, R100, R124). -/
def Ctx.zero : Ctx := ⟨0⟩

end Sys2Proof
end

