-- ==== Sys2Proof/Config.lean ====
section
/-! DEFINITION. The parameters of spec/00_scope.md R4 and the free values: what the spec fixes once for the hardware
(the widths stand in Word.lean), what it leaves OPEN (MASK_INIT, SCRAMBLE, SNAP_NAME), and the values of the opaque agents that nothing constrains
(spec/93_implementation_defined.md U5, U12, U13). An opaque constant has no body: no proof can see its value. -/

namespace Sys2Proof

/-- The routines of the engine that VARIANTS selects (R120): the baseline family member's, the sub-variant's own
reset and init, the CMOS-extended ones, and the process-wide primitives that no variant overrides (R126 to R128). -/
inductive Routine where
  | baseline
  | sub
  | cmos
  | shared
  deriving DecidableEq, Repr

/-- The engine behaviours the block invokes on port ECTL (R6, R121, R128). -/
inductive EngineCall where
  | execute (budget : Cycles)
  | reset
  | init
  | setInterruptLine (line : BitVec 8) (level : Bool)
  | setHold
  | saveContext
  | loadContext
  | getProgramCounter
  | getPreviousProgramCounter
  deriving DecidableEq, Repr

/-- One row of VARIANTS: the routines behind the four behaviours of the bundle and the `scrambled` attribute (R120). -/
structure VariantRow where
  name : String
  execute : Routine
  resetInit : Routine
  setInterruptLine : Routine
  scrambled : Bool
  deriving DecidableEq, Repr

namespace Config

/-- MAX_CPU (R4). -/
abbrev maxCpu : Nat := 8

/-- N_PAGES, the length of each page table (R4). -/
abbrev nPages : Nat := 256

/-- PAGE_SIZE in bytes (R4). -/
abbrev pageSize : Nat := 256

/-- N_REMAP, the length of the opcode-remap table (R4). -/
abbrev nRemap : Nat := 256

/-- The number of callback slots (R23). -/
abbrev nCallbacks : Nat := 6

/-- VARIANTS: the row of each variant id, in the order of the ids (R4, R120, D11). -/
def variants : List VariantRow :=
  [{ name := "V_BASE", execute := .baseline, resetInit := .baseline, setInterruptLine := .baseline, scrambled := false },
   { name := "V_SUB", execute := .baseline, resetInit := .sub, setInterruptLine := .baseline, scrambled := false },
   { name := "V_CMOS", execute := .cmos, resetInit := .cmos, setInterruptLine := .cmos, scrambled := false },
   { name := "V_SCRAMBLED", execute := .baseline, resetInit := .baseline, setInterruptLine := .baseline, scrambled := true }]

/-- LINE_NMI, the line id of the non-maskable line (R4, R75; PRESUMED by the spec's G1, log entry 12). -/
def lineNmi : BitVec 8 := 0x20#8

/-- NESTED_RUN_ALLOWED (spec/93_implementation_defined.md U6). True here: R201 corner (d) and R278 give a nested RUN
its effect and say that the block does not refuse it (DESIGN CHOICE, log entry 11). -/
def nestedRunAllowed : Bool := true

/-- MASK_INIT, the address mask after CREATE, OPEN (R32, U9). Log entry 8. -/
opaque maskInit : Addr

/-- The OPEN permutation of bit positions behind SCRAMBLE: bit `i` of SCRAMBLE(b) is bit `scrambleBits i` of b
(R4, U10). Log entry 9. -/
opaque scrambleBits : Equiv.Perm (Fin 8)

/-- The spec's example value of SCRAMBLE: bits 5 and 6 swapped (R4, G2). Nothing in the machine uses it. -/
def scrambleBitsDefault : Equiv.Perm (Fin 8) := Equiv.swap 5 6

/-- The naming of register-block descriptors: an injective function of the slot id (R216). -/
structure SnapNaming where
  name : Fin maxCpu → String := fun i => "CPU" ++ toString i.val
  injective : Function.Injective name := by decide
  deriving Inhabited

/-- SNAP_NAME, OPEN and injective (R216, U11). Log entry 10. -/
opaque snapNaming : SnapNaming

/-- The working context an engine behaviour leaves when no script of State says what it does: a free value of the
routine, the call, the context before and the serial number of the invocation (U5, U12). Log entry 3. -/
opaque freeContext : Routine → EngineCall → Ctx → Nat → Ctx

/-- The cycles `execute` reports when no script of State says so: a free value (R122, U14). Log entry 3. -/
opaque freeConsumed : Routine → EngineCall → Ctx → Nat → Cycles

/-- The byte a handler answers when no script of State says so: a free value (R151, U5). Log entry 4. -/
opaque freeAnswer : HandlerId → Fin nCallbacks → Addr → Nat → Byte

/-- The register block, the total and the segment counter the snapshot driver supplies when no script of State says
so: free values (R215, U13). Log entry 5. -/
opaque freeBlock : Fin maxCpu → Nat → Ctx
opaque freeTotal : Fin maxCpu → Nat → Cycles
opaque freeSegment : Fin maxCpu → Nat → Cycles

/-- `get_program_counter()` and `get_previous_program_counter()`: pure functions of the working context, at most
32 bits, otherwise the engine's (R127). Log entry 20. -/
opaque programCounter : Ctx → Result
opaque previousProgramCounter : Ctx → Result

/-- The host address of `base + k` when that sum is 2^64 or more: R43 makes it the HOST's duty that it never is, and
gives no value; a free value of the operands. Log entry 13. -/
opaque hostBeyond : HostAddr → Nat → HostAddr

end Config

/-- A slot id, 0..MAX_CPU-1 (R13). -/
abbrev Slot := Fin Config.maxCpu

/-- A variant: the id of a row of VARIANTS (R19, R77, R120). -/
abbrev Variant := Fin Config.variants.length

/-- An index into CB[0..5] (R23). -/
abbrev CbIndex := Fin Config.nCallbacks

end Sys2Proof
end

