-- ==== Sys2Proof/Syntax.lean ====
section
/-! DEFINITION. The 27 commands of spec/30_encoding.md R72 with the operands of their formats (R71, R73 to R81). -/

namespace Sys2Proof

/-- Interrupt status, R74. -/
inductive IrqStatus where
  | none
  | ack
  | auto
  | hold
  deriving DecidableEq, Repr

/-- One constructor per row of spec/opcode_table.json. A pointer operand is `none` when `nul` = 1 (R78); `kinds` has
bit 0 read, bit 1 write, bit 2 fetch (R73). -/
inductive Instr where
  | create (s variant : BitVec 8)
  | destroy
  | openSlot (s : BitVec 8)
  | close
  | getActive
  | getPc
  | getPpc
  | cpuReset
  | mapRange (buffer : Option HostAddr) (start stop : Addr) (kinds : BitVec 3)
  | setMask (mask : Addr)
  | setCb (sel : BitVec 3) (handler : Option HandlerId)
  | setRemap (index value : Byte)
  | readByte (addr : Addr)
  | writeByte (addr : Addr) (data : Byte)
  | readOp (addr : Addr)
  | readArg (addr : Addr)
  | readPort (addr : Addr)
  | writePort (addr : Addr) (data : Byte)
  | writeRom (addr : Addr) (data : Byte)
  | setIrq (line : BitVec 8) (status : IrqStatus)
  | setIrqx (s line : BitVec 8) (status : IrqStatus)
  | newFrame
  | run (n : Cycles)
  | idle (n : Cycles)
  | getCur
  | getSaved (s : BitVec 8)
  | scan (driver write : Bool)
  deriving DecidableEq, Repr

end Sys2Proof
end

