-- ==== Sys2Proof/WellFormed.lean ====
section
/-! DEFINITION. Which terms of Instr are commands: the one sub-field condition that the operand types leave open is
the callback selector of SETCB (spec/30_encoding.md R76, R82). A null pointer with a non-zero `w` (R78) and a status
outside R74 are no terms of Instr at all; slot ids, variant ids and masks decode whatever their value (R77, R79). -/

namespace Sys2Proof

/-- A selector names one of CB[0..5]; 6 and 7 are illegal (R76). -/
def selectorOk (sel : BitVec 3) : Bool := sel.toNat < Config.nCallbacks

/-- The commands that have an encoding. -/
def Instr.wellFormed : Instr → Bool
  | .setCb sel _ => selectorOk sel
  | .create _ _ | .destroy | .openSlot _ | .close | .getActive | .getPc | .getPpc | .cpuReset
  | .mapRange _ _ _ _ | .setMask _ | .setRemap _ _ | .readByte _ | .writeByte _ _ | .readOp _ | .readArg _
  | .readPort _ | .writePort _ _ | .writeRom _ _ | .setIrq _ _ | .setIrqx _ _ _ | .newFrame | .run _ | .idle _
  | .getCur | .getSaved _ | .scan _ _ => true

end Sys2Proof
end

