-- ==== Sys2Proof/Decode.lean ====
section
/-! DEFINITION. The decoder and the encoder of command words (spec/30_encoding.md). The decoder is total: every word that
spells no command is rejected by name, and the machine raises BAD_COMMAND for it (R82, R83, R238). -/

namespace Sys2Proof

/-- The seven fields of a command word (R70). -/
structure Fields where
  op : BitVec 8
  s : BitVec 8 := 0#8
  x : BitVec 8 := 0#8
  y : BitVec 8 := 0#8
  a : BitVec 16 := 0#16
  b : BitVec 16 := 0#16
  w : BitVec 64 := 0#64
  deriving DecidableEq, Repr

/-- The fields at their fixed positions (R70). -/
def splitFields (cw : CommandWord) : Fields where
  op := cw.extractLsb' 120 8
  s := cw.extractLsb' 112 8
  x := cw.extractLsb' 104 8
  y := cw.extractLsb' 96 8
  a := cw.extractLsb' 80 16
  b := cw.extractLsb' 64 16
  w := cw.extractLsb' 0 64

/-- The word that holds the given fields: op, s, x, y, a, b, w from the left (R70). -/
def packFields (f : Fields) : CommandWord :=
  f.op ++ f.s ++ f.x ++ f.y ++ f.a ++ f.b ++ f.w

/-- Why a word spells no command (R82, R83). -/
inductive DecodeError where
  | unknownOpcode      -- op is none of the 27 (R83)
  | mustBeZero         -- a bit the format does not use is 1 (R82)
  | badSelector        -- SETCB with sel 6 or 7 (R76, R82)
  | nullWithPointer    -- nul = 1 and w not 0 (R78, R82)
  deriving DecidableEq, Repr

/-- What the decoder answers. -/
inductive Decoded where
  | ok (i : Instr)
  | rejected (e : DecodeError)
  deriving DecidableEq, Repr

/-- The instruction, where there is one. -/
def Decoded.instr? : Decoded → Option Instr
  | .ok i => some i
  | .rejected _ => none

/-! The formats of R71: each keeps the bits that it uses and clears the others. -/

def keepF0 (f : Fields) : Fields := { op := f.op }
def keepFS (f : Fields) : Fields := { op := f.op, s := f.s }
def keepFSV (f : Fields) : Fields := { op := f.op, s := f.s, x := f.x }
def keepFMAP (f : Fields) : Fields := { op := f.op, x := f.x &&& 7#8, y := f.y &&& 1#8, a := f.a, b := f.b, w := f.w }
def keepFA (f : Fields) : Fields := { op := f.op, a := f.a }
def keepFAD (f : Fields) : Fields := { op := f.op, y := f.y, a := f.a }
def keepFCB (f : Fields) : Fields := { op := f.op, x := f.x &&& 7#8, y := f.y &&& 1#8, w := f.w }
def keepFXY (f : Fields) : Fields := { op := f.op, x := f.x, y := f.y }
def keepFIRQ (f : Fields) : Fields := { op := f.op, x := f.x, y := f.y &&& 3#8 }
def keepFIRQX (f : Fields) : Fields := { op := f.op, s := f.s, x := f.x, y := f.y &&& 3#8 }
def keepFW (f : Fields) : Fields := { op := f.op, w := f.w &&& 0xFFFFFFFF#64 }
def keepFSCAN (f : Fields) : Fields := { op := f.op, x := f.x &&& 3#8 }

/-- A word of a format has a 0 in every bit that the format does not use (R71, R82). -/
def inFormat (keep : Fields → Fields) (f : Fields) (k : Decoded) : Decoded :=
  if keep f = f then k else .rejected .mustBeZero

/-- A pointer operand: null when nul = 1, and then w must be 0; else any 64-bit value (R78). -/
def pointerOperand (f : Fields) (k : Option (BitVec 64) → Decoded) : Decoded :=
  if f.y.getLsbD 0 then
    if f.w = 0#64 then k none else .rejected .nullWithPointer
  else k (some f.w)

/-- The status codes of R74. -/
def statusOf (y : BitVec 8) : IrqStatus :=
  match (y.extractLsb' 0 2).toNat with
  | 0 => .none
  | 1 => .ack
  | 2 => .auto
  | _ => .hold

/-- The decoding of the fields, one line per row of R72. -/
def decodeFields (f : Fields) : Decoded :=
  match f.op.toNat with
  | 0x01 => inFormat keepFSV f (.ok (.create f.s f.x))
  | 0x02 => inFormat keepF0 f (.ok .destroy)
  | 0x03 => inFormat keepFS f (.ok (.openSlot f.s))
  | 0x04 => inFormat keepF0 f (.ok .close)
  | 0x05 => inFormat keepF0 f (.ok .getActive)
  | 0x08 => inFormat keepF0 f (.ok .getPc)
  | 0x09 => inFormat keepF0 f (.ok .getPpc)
  | 0x0A => inFormat keepF0 f (.ok .cpuReset)
  | 0x10 => inFormat keepFMAP f (pointerOperand f fun p => .ok (.mapRange p f.a f.b (f.x.extractLsb' 0 3)))
  | 0x11 => inFormat keepFA f (.ok (.setMask f.a))
  | 0x12 => inFormat keepFCB f (pointerOperand f fun p =>
      if selectorOk (f.x.extractLsb' 0 3) then .ok (.setCb (f.x.extractLsb' 0 3) p) else .rejected .badSelector)
  | 0x13 => inFormat keepFXY f (.ok (.setRemap f.x f.y))
  | 0x18 => inFormat keepFA f (.ok (.readByte f.a))
  | 0x19 => inFormat keepFAD f (.ok (.writeByte f.a f.y))
  | 0x1A => inFormat keepFA f (.ok (.readOp f.a))
  | 0x1B => inFormat keepFA f (.ok (.readArg f.a))
  | 0x1C => inFormat keepFA f (.ok (.readPort f.a))
  | 0x1D => inFormat keepFAD f (.ok (.writePort f.a f.y))
  | 0x1E => inFormat keepFAD f (.ok (.writeRom f.a f.y))
  | 0x20 => inFormat keepFIRQ f (.ok (.setIrq f.x (statusOf f.y)))
  | 0x21 => inFormat keepFIRQX f (.ok (.setIrqx f.s f.x (statusOf f.y)))
  | 0x28 => inFormat keepF0 f (.ok .newFrame)
  | 0x29 => inFormat keepFW f (.ok (.run (f.w.extractLsb' 0 32)))
  | 0x2A => inFormat keepFW f (.ok (.idle (f.w.extractLsb' 0 32)))
  | 0x2B => inFormat keepF0 f (.ok .getCur)
  | 0x2C => inFormat keepFS f (.ok (.getSaved f.s))
  | 0x30 => inFormat keepFSCAN f (.ok (.scan (f.x.getLsbD 0) (f.x.getLsbD 1)))
  | _ => .rejected .unknownOpcode

/-- The decoder: total on the 2^128 command words. -/
def decode (cw : CommandWord) : Decoded := decodeFields (splitFields cw)

/-- The row of spec/opcode_table.json read by the decoder: a command word is one 128-bit word, so bit 0 of the table is
bit 0 of CW; the bits above `nbits` are 0. -/
def decodeTableWord (nbits w : Nat) : Option Instr := (decode (BitVec.ofNat Config.cwW (w % 2 ^ nbits))).instr?

/-! The encoder. -/

/-- The code of a status (R74). -/
def statusCode : IrqStatus → BitVec 8
  | .none => 0#8
  | .ack => 1#8
  | .auto => 2#8
  | .hold => 3#8

/-- The `nul` flag of a pointer operand (R78). -/
def nulCode : Option (BitVec 64) → BitVec 8
  | none => 1#8
  | some _ => 0#8

/-- The `w` field of a pointer operand (R78). -/
def pointerCode : Option (BitVec 64) → BitVec 64
  | none => 0#64
  | some p => p

/-- The fields of a command, from the opcode map (R72) and the formats (R71). -/
def encodeFields : Instr → Fields
  | .create s variant => { op := 0x01#8, s := s, x := variant }
  | .destroy => { op := 0x02#8 }
  | .openSlot s => { op := 0x03#8, s := s }
  | .close => { op := 0x04#8 }
  | .getActive => { op := 0x05#8 }
  | .getPc => { op := 0x08#8 }
  | .getPpc => { op := 0x09#8 }
  | .cpuReset => { op := 0x0A#8 }
  | .mapRange buffer start stop kinds =>
      { op := 0x10#8, x := kinds.zeroExtend 8, y := nulCode buffer, a := start, b := stop, w := pointerCode buffer }
  | .setMask mask => { op := 0x11#8, a := mask }
  | .setCb sel handler => { op := 0x12#8, x := sel.zeroExtend 8, y := nulCode handler, w := pointerCode handler }
  | .setRemap index value => { op := 0x13#8, x := index, y := value }
  | .readByte addr => { op := 0x18#8, a := addr }
  | .writeByte addr data => { op := 0x19#8, y := data, a := addr }
  | .readOp addr => { op := 0x1A#8, a := addr }
  | .readArg addr => { op := 0x1B#8, a := addr }
  | .readPort addr => { op := 0x1C#8, a := addr }
  | .writePort addr data => { op := 0x1D#8, y := data, a := addr }
  | .writeRom addr data => { op := 0x1E#8, y := data, a := addr }
  | .setIrq line status => { op := 0x20#8, x := line, y := statusCode status }
  | .setIrqx s line status => { op := 0x21#8, s := s, x := line, y := statusCode status }
  | .newFrame => { op := 0x28#8 }
  | .run n => { op := 0x29#8, w := n.zeroExtend 64 }
  | .idle n => { op := 0x2A#8, w := n.zeroExtend 64 }
  | .getCur => { op := 0x2B#8 }
  | .getSaved s => { op := 0x2C#8, s := s }
  | .scan driver write => { op := 0x30#8, x := (BitVec.ofBool write ++ BitVec.ofBool driver).zeroExtend 8 }

/-- The command word of an instruction. -/
def encode (i : Instr) : CommandWord := packFields (encodeFields i)

end Sys2Proof
end

