-- ==== Sys2Proof/Machine/State.lean ====
section
/-! DEFINITION. The state: everything spec/10_state.md R10 gives the block, and beside it (Env) the world the block is
connected to, as plain data: host memory, the inputs still to come from the HOST, the engine, the handlers and the
snapshot driver, and the record of what the block has driven on its ports (R5, R6, R30). -/

namespace Sys2Proof.Machine

/-- The contract-violation codes 1..9 (R231). -/
inductive Violation where
  | noInit            -- 1, R232
  | doubleOpen        -- 2, R233
  | noActive          -- 3, R234
  | badSlot           -- 4, R235
  | badMask           -- 5, R236
  | badVariant        -- 6, R237
  | badCommand        -- 7, R238
  | activeChanged     -- 8, R239
  | destroyActive     -- 9, R240
  deriving DecidableEq, Repr

/-- A page table: 256 entries, each null or the base of a 256-byte host buffer (R22). -/
abbrev PageTable := Vector (Option HostAddr) Config.nPages

/-- The opcode-remap table: any 256 bytes (R20, U7). -/
abbrev RemapTable := Vector Byte Config.nRemap

/-- The six callback slots, each absent or a handler id (R23). -/
abbrev Callbacks := Vector (Option HandlerId) Config.nCallbacks

/-- The per-slot state of one emulated CPU (R18 to R25). -/
structure Instance where
  rb : Ctx
  variant : Variant
  remap : RemapTable
  mask : Addr
  rd : PageTable
  wr : PageTable
  fe : PageTable
  cb : Callbacks
  total : Cycles
  segment : Cycles
  deriving DecidableEq, Repr

/-- WCTX: the shared working context, or POISON while no CPU is active (R15). -/
inductive WorkingContext where
  | poison
  | live (c : Ctx)
  deriving DecidableEq, Repr

/-- Host memory: (address, byte) pairs in the canonical form of `HostMem.wf` (Machine/Ops.lean); R43. -/
abbrev HostMem := List Host.Cell

/-- One input of the HOST: a command on port CMD, a change of host memory between commands (R43), or a pulse of the
hardware reset (R270). -/
inductive HostAct where
  | command (cw : CommandWord)
  | hostWrite (h : HostAddr) (v : Byte)
  | hardwareReset
  deriving DecidableEq, Repr

/-- What an engine behaviour does while it runs: it writes the working context, or it makes one access on port EBUS
(R85, R122 to R125, R130). -/
inductive EngineAct where
  | setContext (c : Ctx)
  | access (kind : BitVec 3) (addr : Addr) (wdata : Byte)
  deriving DecidableEq, Repr

/-- One invocation of an engine behaviour: what it does, in order, and the count `execute` returns (R122). -/
structure EngineScript where
  acts : List EngineAct
  consumed : Cycles
  deriving DecidableEq, Repr

/-- What a handler does while it runs: it issues a nested command, or it changes host memory (R43, R135, R151). -/
inductive HandlerAct where
  | command (cw : CommandWord)
  | hostWrite (h : HostAddr) (v : Byte)
  deriving DecidableEq, Repr

/-- One invocation of a handler: what it does, in order, and the byte it answers (R151). -/
structure HandlerScript where
  acts : List HandlerAct
  answer : Byte
  deriving DecidableEq, Repr

/-- One record of the snapshot driver: the nested commands it issues (R9) and the values it supplies (R215). -/
structure SnapScript where
  commands : List CommandWord
  rb : Ctx
  total : Cycles
  segment : Cycles
  deriving DecidableEq, Repr

/-- One transfer on a port of R6, as the block drives or answers it. -/
inductive PortEvent where
  /-- ECTL: behaviour `call` of the active slot's bundle is invoked; `routine` is the one VARIANTS selects. -/
  | ectl (slot : Slot) (routine : Routine) (call : EngineCall)
  /-- EBUS: an engine access and the byte the block answers. -/
  | ebus (kind : BitVec 3) (addr : Addr) (wdata rdata : Byte)
  /-- HMEM: HRead and HWrite. -/
  | hread (h : HostAddr) (v : Byte)
  | hwrite (h : HostAddr) (v : Byte)
  /-- CB: handler id, selector, address, data byte for the write selectors. -/
  | cb (handler : HandlerId) (sel : CbIndex) (addr : Addr) (wdata : Option Byte)
  /-- SNAP: descriptor name, register block, the two counters, direction. -/
  | snap (name : String) (rb : Ctx) (total segment : Cycles) (write : Bool)
  /-- WARN: a pulse with the violation code. -/
  | warn (code : Violation)
  /-- CMD: `done` with the value of RES. -/
  | done (res : Result)
  deriving DecidableEq, Repr

/-- The world around the block (R5, R30): not state of the block, so the hardware reset leaves it alone (R31). -/
structure Env where
  /-- Host memory (R43). -/
  mem : HostMem
  /-- The HOST's inputs to come; the first is what the next step takes (log entry 1). -/
  hostIn : List HostAct
  /-- What the next invocations of engine behaviours do (log entry 3). -/
  engineIn : List EngineScript
  /-- What the next invocations of handlers do (log entry 4). -/
  handlerIn : List HandlerScript
  /-- What the snapshot driver does with the next records (log entry 5). -/
  snapIn : List SnapScript
  /-- The serial number of the next free value (log entry 6). -/
  serial : Nat
  /-- The transfers on the block's ports so far, oldest first (log entry 18). -/
  ports : List PortEvent
  deriving DecidableEq, Repr

/-- The machine: the block's process-wide state (R11 to R17) and its environment. -/
structure State where
  /-- COUNT (R11). -/
  count : Cycles
  /-- ACTIVE; `none` is -1 (R12). -/
  active : Option Slot
  /-- SLOT[0..MAX_CPU-1]; `none` is absent (R13). -/
  slots : Vector (Option Instance) Config.maxCpu
  /-- CUR (R14). -/
  cur : Cycles
  /-- WCTX (R15). -/
  wctx : WorkingContext
  /-- VIOL; `none` is the spec's none (R16). -/
  viol : Option Violation
  /-- RES (R17). -/
  res : Result
  /-- The agents the block is connected to. -/
  env : Env
  deriving DecidableEq, Repr

/-- Why the machine stops. No violation of R231 is among these: a violation is a next state. -/
inductive Fault where
  /-- A read of WCTX while it is POISON: raised by an engine invocation and by the save of CLOSE. R276 and U4 ask for
  a fault and not a value. Safe. Log entry 15. -/
  | poisonContext
  /-- `I`, or a slot a rule has checked before, is absent when the rule reads it: only after a handler or the snapshot
  driver has closed or destroyed it in the middle of a command, which R135 forbids and for which R186 says the checks
  "cannot fail here". Raised by the accessors of an instance. Safe. Log entry 16. -/
  | absentInstance
  /-- The bound on nested commands is used up: raised by no run, since the bound counts the scripts that can still
  issue a command. Safe. Log entry 17. -/
  | nestingDepth
  deriving DecidableEq, Repr

/-- Why an instruction has no meaning. -/
inductive Refusal where
  /-- An instruction not modelled yet: raised by exec's arm alone. Safe. -/
  | notModelled (mnemonic : String)
  /-- A handler issues RUN while the parameter NESTED_RUN_ALLOWED is false (U6); with the value that
  Config.lean takes it is never raised. Safe. Log entry 11. -/
  | nestedRun
  deriving DecidableEq, Repr

/-- An environment in which nothing has happened and nothing is queued (log entries 1 to 6, 18). -/
def Env.initial : Env where
  mem := []
  hostIn := []
  engineIn := []
  handlerIn := []
  snapIn := []
  serial := 0
  ports := []

/-- The state after hardware reset (R31, R270). -/
def State.reset : State where
  count := 0#32
  active := none
  slots := Vector.replicate Config.maxCpu none
  cur := 0#32
  wctx := .poison
  viol := none
  res := 0#32
  env := Env.initial

end Sys2Proof.Machine
end

