-- ==== Sys2Proof/Machine/Flags.lean ====
section
/-! DEFINITION. The block has no condition codes and no flag that a command sets as an arithmetic side effect; its one
flag-like state is VIOL (spec/10_state.md R33). This file says how VIOL takes a violation. -/

namespace Sys2Proof.Machine

/-- VIOL after a violation: the first code is kept (R16, R230, R243). -/
def recordViolation (viol : Option Violation) (code : Violation) : Option Violation :=
  match viol with
  | none => some code
  | some first => some first

end Sys2Proof.Machine
end

