-- ==== Sys2Proof/Machine/Operands.lean ====
section
/-! DEFINITION. Every operand form of the command set and the values computed from operands alone: slot ids, variants and
their dispatch bundles, the scramble permutation, page index and offset, host addresses, the encodings of RES. -/

namespace Sys2Proof.Machine

/-- A slot operand names a slot when it is below MAX_CPU (R79, R235). -/
def slotOf (s : BitVec 8) : Option Slot :=
  if h : s.toNat < Config.maxCpu then some ⟨s.toNat, h⟩ else none

/-- A variant operand names a row of VARIANTS when it is below the length of the table (R77, R120, R237). -/
def variantOf (id : BitVec 8) : Option Variant :=
  if h : id.toNat < Config.variants.length then some ⟨id.toNat, h⟩ else none

/-- The row of a variant (R120). -/
def variantRow (v : Variant) : VariantRow := Config.variants[v]

/-- The `scrambled` attribute of a variant (R120). -/
def isScrambled (v : Variant) : Bool := (variantRow v).scrambled

/-- The routine behind behaviour `call` of a variant's dispatch bundle; set_hold, the context primitives and the
program-counter reads are process-wide (R120, R121, R128). -/
def routineOf (v : Variant) : EngineCall → Routine
  | .execute _ => (variantRow v).execute
  | .setInterruptLine _ _ => (variantRow v).setInterruptLine
  | .reset | .init => (variantRow v).resetInit
  | .setHold | .saveContext | .loadContext | .getProgramCounter | .getPreviousProgramCounter => .shared

/-- A permutation of bit positions applied to a byte: bit `i` of the result is bit `π i` of `b` (R4, U10). -/
def permuteBits (π : Equiv.Perm (Fin 8)) (b : Byte) : Byte :=
  BitVec.ofFnLE fun i => b.getLsbD (π i)

/-- SCRAMBLE (R4). -/
def scramble (b : Byte) : Byte := permuteBits Config.scrambleBits b

/-- REMAP after CREATE: the identity, or SCRAMBLE for the scrambled-opcode variant (R32, R100). -/
def initialRemap (v : Variant) : RemapTable :=
  Vector.ofFn fun b => if isScrambled v then scramble (BitVec.ofNat 8 b.val) else BitVec.ofNat 8 b.val

/-- The page index of an address, bits 15 to 8 (R44). -/
def pageOf (a : Addr) : BitVec 8 := a.extractLsb' 8 8

/-- The offset of an address in its page, bits 7 to 0 (R44). -/
def offsetOf (a : Addr) : BitVec 8 := a.extractLsb' 0 8

/-- A mask is well formed when its low byte is 0xFF (R141, R236). -/
def maskOk (mask : Addr) : Bool := offsetOf mask = 0xFF#8

/-- The entry of a page table for a page. -/
def PageTable.entry (t : PageTable) (p : BitVec 8) : Option HostAddr := t[p.toNat]'(p.isLt)

/-- The entry of the remap table for a byte. -/
def RemapTable.entry (t : RemapTable) (b : Byte) : Byte := t[b.toNat]'(b.isLt)

/-- REMAP with one entry replaced (R143). -/
def RemapTable.put (t : RemapTable) (index value : Byte) : RemapTable := t.set index.toNat value index.isLt

/-- `base + k`, exact (R43, R58). Where the sum passes 2^64, which R43 makes the HOST's duty to avoid, the address is a
free value (log entry 13). -/
def hostAddr (base : HostAddr) (k : Nat) : HostAddr :=
  if base.toNat + k < 2 ^ Config.hostW then BitVec.ofNat Config.hostW (base.toNat + k) else Config.hostBeyond base k

/-- The translation function of R44 for one page table: the masked address, and the host address when the page is
mapped. -/
def translateAddr (t : PageTable) (mask addr : Addr) : Addr × Option HostAddr :=
  (addr &&& mask, (t.entry (pageOf (addr &&& mask))).map fun base => hostAddr base (offsetOf (addr &&& mask)).toNat)

/-- The entry MAPRANGE installs for page `p` of a range that begins at page `p0` (R140, R58). -/
def rangeEntry (buffer : Option HostAddr) (p0 p : Nat) : Option HostAddr :=
  buffer.map fun base => hostAddr base ((p - p0) * Config.pageSize)

/-- A page table after MAPRANGE: the pages of `start` to those of `stop` get the range's entries, none when the range
is empty; the others keep theirs (R140). -/
def mapPages (t : PageTable) (buffer : Option HostAddr) (start stop : Addr) : PageTable :=
  Vector.ofFn fun p =>
    if (pageOf start).toNat ≤ p.val ∧ p.val ≤ (pageOf stop).toNat then rangeEntry buffer (pageOf start).toNat p.val
    else t[p]

/-- The three tables after MAPRANGE, each only when `kinds` selects it: bit 0 RD, bit 1 WR, bit 2 FE (R73, R140). -/
def Instance.mapRange (i : Instance) (buffer : Option HostAddr) (start stop : Addr) (kinds : BitVec 3) : Instance :=
  { i with
    rd := if kinds.getLsbD 0 then mapPages i.rd buffer start stop else i.rd
    wr := if kinds.getLsbD 1 then mapPages i.wr buffer start stop else i.wr
    fe := if kinds.getLsbD 2 then mapPages i.fe buffer start stop else i.fe }

/-- The fresh instance of CREATE before the engine's init runs (R32, R100). -/
def Instance.fresh (v : Variant) : Instance where
  rb := Ctx.zero
  variant := v
  remap := initialRemap v
  mask := Config.maskInit
  rd := Vector.replicate Config.nPages none
  wr := Vector.replicate Config.nPages none
  fe := Vector.replicate Config.nPages none
  cb := Vector.replicate Config.nCallbacks none
  total := 0#32
  segment := 0#32

/-! The callback selectors of R23 and R76. -/

def cbPortRead : CbIndex := 0
def cbPortWrite : CbIndex := 1
def cbByteRead : CbIndex := 2
def cbByteWrite : CbIndex := 3
def cbOpRead : CbIndex := 4
def cbArgRead : CbIndex := 5

/-- The selector operand of SETCB as an index into CB; 6 and 7 name none (R76). -/
def selectorOf (sel : BitVec 3) : Option CbIndex :=
  if h : sel.toNat < Config.nCallbacks then some ⟨sel.toNat, h⟩ else none

/-! The contents of RES (R84). -/

/-- zext_32 of a byte (R84). -/
def byteResult (b : Byte) : Result := b.zeroExtend 32

/-- sext_32(ACTIVE): -1 reads 0xFFFFFFFF (R12, R104). -/
def activeResult : Option Slot → Result
  | none => 0xFFFFFFFF#32
  | some a => BitVec.ofNat 32 a.val

/-- RES of a command that raised a violation (R84, R230). -/
def violationResult : Result := 0xFFFFFFFF#32

/-- rdata of an engine access: RES[7:0] (R85). -/
def busData (r : Result) : Byte := r.extractLsb' 0 8

/-- The number of a violation code (R231). -/
def violationCode : Violation → Nat
  | .noInit => 1
  | .doubleOpen => 2
  | .noActive => 3
  | .badSlot => 4
  | .badMask => 5
  | .badVariant => 6
  | .badCommand => 7
  | .activeChanged => 8
  | .destroyActive => 9

end Sys2Proof.Machine
end

