-- ==== Sys2Proof/Machine/Ops.lean ====
section
/-! DEFINITION. The named operations over host memory, the block's registers and its environment, the violation mechanism
(this hardware's taking of an exception, R230; there is no return from one, R243), the invocation of a handler (R151)
and the state changes of OPEN and CLOSE (R102, R103). -/

namespace Sys2Proof.Machine

/-! Host memory (R43). -/

/-- What a byte that is not listed reads as (DESIGN CHOICE, log entry 2). -/
def unlistedByte : Byte := 0#8

/-- The byte at a numeric address. -/
def HostMem.look : HostMem → Nat → Byte
  | [], _ => unlistedByte
  | (a, v) :: m, h => if a = h then v else HostMem.look m h

/-- Memory with the byte at `h` replaced, in canonical form. -/
def HostMem.put : HostMem → Nat → Byte → HostMem
  | [], h, v => if v = unlistedByte then [] else [(h, v)]
  | (a, w) :: m, h, v =>
    if a < h then (a, w) :: HostMem.put m h v
    else if a = h then (if v = unlistedByte then m else (h, v) :: m)
    else if v = unlistedByte then (a, w) :: m else (h, v) :: (a, w) :: m

/-- The canonical form: addresses strictly rising and inside the 64-bit space, no entry equal to what an unlisted
address reads as. -/
def HostMem.wf (m : HostMem) : Bool :=
  m.Pairwise (fun c d => c.1 < d.1) ∧ ∀ c ∈ m, c.1 < 2 ^ Config.hostW ∧ c.2 ≠ unlistedByte

/-! One update per field. -/

def State.setCount (s : State) (v : Cycles) : State := { s with count := v }
def State.setActive (s : State) (v : Option Slot) : State := { s with active := v }
def State.setSlots (s : State) (v : Vector (Option Instance) Config.maxCpu) : State := { s with slots := v }
def State.setSlot (s : State) (a : Slot) (v : Option Instance) : State := { s with slots := s.slots.set a.val v a.isLt }
def State.setCur (s : State) (v : Cycles) : State := { s with cur := v }
def State.setWctx (s : State) (v : WorkingContext) : State := { s with wctx := v }
def State.setViol (s : State) (v : Option Violation) : State := { s with viol := v }
def State.setRes (s : State) (v : Result) : State := { s with res := v }
def State.setMem (s : State) (v : HostMem) : State := { s with env := { s.env with mem := v } }
def State.setHostIn (s : State) (v : List HostAct) : State := { s with env := { s.env with hostIn := v } }
def State.setEngineIn (s : State) (v : List EngineScript) : State := { s with env := { s.env with engineIn := v } }
def State.setHandlerIn (s : State) (v : List HandlerScript) : State := { s with env := { s.env with handlerIn := v } }
def State.setSnapIn (s : State) (v : List SnapScript) : State := { s with env := { s.env with snapIn := v } }
def State.setSerial (s : State) (v : Nat) : State := { s with env := { s.env with serial := v } }
/-- Adds a transfer to the record of the ports. -/
def State.log (s : State) (e : PortEvent) : State := { s with env := { s.env with ports := s.env.ports ++ [e] } }

/-- The slot's content (R13). -/
def State.slot (s : State) (a : Slot) : Option Instance := s.slots[a.val]'(a.isLt)

/-- The byte of host memory at `h`. -/
def State.hostByte (s : State) (h : HostAddr) : Byte := HostMem.look s.env.mem h.toNat

/-- A byte stored into host memory by whatever agent. -/
def State.pokeHost (s : State) (h : HostAddr) (v : Byte) : State := s.setMem (HostMem.put s.env.mem h.toNat v)

/-- HRead(h): the transfer on port HMEM; the byte is `hostByte` (R8). -/
def State.hread (s : State) (h : HostAddr) : State := s.log (.hread h (s.hostByte h))

/-- HWrite(h, v): the transfer on port HMEM (R8). -/
def State.hwrite (s : State) (h : HostAddr) (v : Byte) : State := (s.pokeHost h v).log (.hwrite h v)

/-! Outcomes. -/

/-- The outcome of a command or of a part of one. -/
abbrev Out := Host.Outcome State Fault Refusal

/-- How a nested command is served: the word on port CMD and the state it is issued in (R9, R135). -/
abbrev Nest := CommandWord → State → Out

/-- What follows a part of a command, when that part did not stop the machine. -/
def andThen (o : Out) (k : State → Out) : Out :=
  match o with
  | .next s => k s
  | .fault f => .fault f
  | .refused r => .refused r

/-- The end of a command: RES takes the result (R17, R84). -/
def finish (s : State) (r : Result) : Out := .next (s.setRes r)

/-- `violate(code)`, R230: VIOL keeps the first code, WARN pulses, RES is 0xFFFFFFFF, nothing else changes. The command
ends here, the machine goes on (R242). -/
def State.violate (s : State) (code : Violation) : State :=
  ((s.setViol (recordViolation s.viol code)).setRes violationResult).log (.warn code)

/-- `violate(code)` as the outcome of a command. -/
def violation (s : State) (code : Violation) : Out := .next (s.violate code)

/-- `done` on port CMD (R6). -/
def answer (s : State) : Out := .next (s.log (.done s.res))

/-! The checks (R232, R234, R235, R241). -/

/-- NOINIT (R232). -/
def checkInit (s : State) (k : Out) : Out := if s.count = 0#32 then violation s .noInit else k

/-- NO_ACTIVE (R234). -/
def checkActive (s : State) (k : Slot → Out) : Out :=
  match s.active with
  | none => violation s .noActive
  | some a => k a

/-- `common_checks()` of spec/42_pagemap.md. -/
def commonChecks (s : State) (k : Slot → Out) : Out := checkInit s (checkActive s k)

/-- BAD_SLOT where a live slot is needed (R235). -/
def checkLive (s : State) (b : BitVec 8) (k : Slot → Instance → Out) : Out :=
  match slotOf b with
  | none => violation s .badSlot
  | some a =>
    match s.slot a with
    | none => violation s .badSlot
    | some i => k a i

/-! Instances. -/

/-- SLOT[a], where a rule reads it without a check (log entry 16). -/
def withInstance (s : State) (a : Slot) (k : Instance → Out) : Out :=
  match s.slot a with
  | none => .fault .absentInstance
  | some i => k i

/-- `I`, the active instance (R8). -/
def withActive (s : State) (k : Slot → Instance → Out) : Out :=
  match s.active with
  | none => .fault .absentInstance
  | some a => withInstance s a (k a)

/-- WCTX, which must not be POISON when it is read (R276, log entry 15). -/
def withContext (s : State) (k : Ctx → Out) : Out :=
  match s.wctx with
  | .poison => .fault .poisonContext
  | .live c => k c

/-! The context primitives (R126). RB and WCTX have one type and both functions are the identity, as R126 allows
(log entry 7). -/

def loadContext (rb : Ctx) : Ctx := rb
def saveContext (c : Ctx) : Ctx := c

/-- The state changes of OPEN, without its checks (R102, R186). -/
def doOpen (s : State) (a : Slot) (k : State → Out) : Out :=
  withInstance s a fun i =>
    k ((((s.setActive (some a)).setWctx (.live (loadContext i.rb))).setCur i.total).log (.ectl a .shared .loadContext))

/-- The state changes of CLOSE, without its checks (R103, R186). -/
def doClose (s : State) (k : State → Out) : Out :=
  withActive s fun a i =>
    withContext s fun c =>
      k ((((s.setSlot a (some { i with rb := saveContext c, total := s.cur })).setWctx .poison).setActive none).log
        (.ectl a .shared .saveContext))

/-! The inputs of the environment, each taken from the front of its list; when the list is empty the agent issues
nothing and its answers are free values (log entries 3 to 6). -/

/-- The next free value's serial number is used up. -/
def State.useSerial (s : State) : State := s.setSerial (s.env.serial + 1)

/-- What the engine does in this invocation. -/
def nextEngine (s : State) (routine : Routine) (call : EngineCall) (c : Ctx) : EngineScript × State :=
  match s.env.engineIn with
  | e :: rest => (e, s.setEngineIn rest)
  | [] =>
    ({ acts := [.setContext (Config.freeContext routine call c s.env.serial)]
       consumed := Config.freeConsumed routine call c s.env.serial }, s.useSerial)

/-- What the handler does in this invocation. -/
def nextHandler (s : State) (id : HandlerId) (sel : CbIndex) (a : Addr) : HandlerScript × State :=
  match s.env.handlerIn with
  | e :: rest => (e, s.setHandlerIn rest)
  | [] => ({ acts := [], answer := Config.freeAnswer id sel a s.env.serial }, s.useSerial)

/-- What the snapshot driver does with this record. -/
def nextSnap (s : State) (a : Slot) : SnapScript × State :=
  match s.env.snapIn with
  | e :: rest => (e, s.setSnapIn rest)
  | [] =>
    ({ commands := []
       rb := Config.freeBlock a s.env.serial
       total := Config.freeTotal a s.env.serial
       segment := Config.freeSegment a s.env.serial }, s.useSerial)

/-- The scripts that can still issue a nested command: the bound on the depth of nesting (log entry 17). -/
def State.scripts (s : State) : Nat := s.env.handlerIn.length + s.env.snapIn.length

/-! Handlers and nested commands (R134, R135, R151). -/

/-- A handler's acts, in order (R43, R135). -/
def handlerActs (nest : Nest) : List HandlerAct → State → Out
  | [], s => .next s
  | .command cw :: rest, s => andThen (nest cw s) (handlerActs nest rest)
  | .hostWrite h v :: rest, s => handlerActs nest rest (s.pokeHost h v)

/-- `Call(sel, a, d)` of the handler `id`: the transfer on port CB, the handler's acts, and at its answer the check that
ACTIVE is what it was; the command that made the call ends when it is not (R151, R239). -/
def callHandler (nest : Nest) (id : HandlerId) (sel : CbIndex) (a : Addr) (d : Option Byte) (s : State)
    (k : Byte → State → Out) : Out :=
  andThen (handlerActs nest (nextHandler s id sel a).1.acts ((nextHandler s id sel a).2.log (.cb id sel a d))) fun t =>
    if t.active = s.active then k (nextHandler s id sel a).1.answer t else violation t .activeChanged

/-- The nested commands of the snapshot driver, in order (R9). -/
def snapCommands (nest : Nest) : List CommandWord → State → Out
  | [], s => .next s
  | cw :: rest, s => andThen (nest cw s) (snapCommands nest rest)

/-! What the HOST does to the block other than issue commands. -/

/-- The hardware reset: every piece of the block's state takes the value of R31; the environment is not the block's
(R270). -/
def State.hardwareReset (s : State) : State := { State.reset with env := s.env }

end Sys2Proof.Machine
end

