-- ==== Sys2Proof/Machine/Access.lean ====
section
/-! DEFINITION. The access commands of spec/42_pagemap.md R144 to R150. Each is a function of how nested commands are
served, since a handler may issue one (R135); the engine's bus accesses are these same commands (R85). -/

namespace Sys2Proof.Machine

/-- The byte a read access obtains: from the mapped buffer, from the handler of slot `sel` with the masked address, or
0 when there is none (R44 to R46). -/
def pagedRead (nest : Nest) (table : Instance → PageTable) (sel : CbIndex) (addr : Addr) (s : State)
    (k : Byte → State → Out) : Out :=
  withActive s fun _ i =>
    match (translateAddr (table i) i.mask addr).2 with
    | some h => k (s.hostByte h) (s.hread h)
    | none =>
      match i.cb[sel] with
      | some id => callHandler nest id sel (translateAddr (table i) i.mask addr).1 none s k
      | none => k 0#8 s

/-- READBYTE (R144). -/
def readByteBy (nest : Nest) (addr : Addr) (s : State) : Out :=
  commonChecks s fun _ => pagedRead nest Instance.rd cbByteRead addr s fun v t => finish t (byteResult v)

/-- WRITEBYTE (R145). -/
def writeByteBy (nest : Nest) (addr : Addr) (data : Byte) (s : State) : Out :=
  commonChecks s fun _ =>
    withActive s fun _ i =>
      match (translateAddr i.wr i.mask addr).2 with
      | some h => finish (s.hwrite h data) 0#32
      | none =>
        match i.cb[cbByteWrite] with
        | some id =>
          callHandler nest id cbByteWrite (translateAddr i.wr i.mask addr).1 (some data) s fun _ t => finish t 0#32
        | none => finish s 0#32

/-- READOP: the fetched byte through REMAP, which is read after the byte is obtained (R146). -/
def readOpBy (nest : Nest) (addr : Addr) (s : State) : Out :=
  commonChecks s fun _ =>
    pagedRead nest Instance.fe cbOpRead addr s fun raw t =>
      withActive t fun _ i => finish t (byteResult (i.remap.entry raw))

/-- READARG: through FE, never remapped (R147). -/
def readArgBy (nest : Nest) (addr : Addr) (s : State) : Out :=
  commonChecks s fun _ => pagedRead nest Instance.fe cbArgRead addr s fun v t => finish t (byteResult v)

/-- READPORT: the handler of CB[0] with the address as given, or 0 (R148, R42). -/
def readPortBy (nest : Nest) (addr : Addr) (s : State) : Out :=
  commonChecks s fun _ =>
    withActive s fun _ i =>
      match i.cb[cbPortRead] with
      | some id => callHandler nest id cbPortRead addr none s fun v t => finish t (byteResult v)
      | none => finish s (byteResult 0#8)

/-- WRITEPORT (R149). -/
def writePortBy (nest : Nest) (addr : Addr) (data : Byte) (s : State) : Out :=
  commonChecks s fun _ =>
    withActive s fun _ i =>
      match i.cb[cbPortWrite] with
      | some id => callHandler nest id cbPortWrite addr (some data) s fun _ t => finish t 0#32
      | none => finish s 0#32

/-- HWrite where the entry's page is mapped, nothing where it is not (R150). -/
def writeMapped (h : Option HostAddr) (data : Byte) (s : State) : State :=
  match h with
  | some h => s.hwrite h data
  | none => s

/-- The writes of WRITEROM, in the order RD, WR, FE (R150). -/
def writeViews (i : Instance) (addr : Addr) (data : Byte) (s : State) : State :=
  writeMapped (translateAddr i.fe i.mask addr).2 data
    (writeMapped (translateAddr i.wr i.mask addr).2 data
      (writeMapped (translateAddr i.rd i.mask addr).2 data s))

/-- WRITEROM: all three views, then the write handler whether or not the page is mapped (R150). -/
def writeRomBy (nest : Nest) (addr : Addr) (data : Byte) (s : State) : Out :=
  commonChecks s fun _ =>
    withActive s fun _ i =>
      match i.cb[cbByteWrite] with
      | some id =>
        callHandler nest id cbByteWrite (addr &&& i.mask) (some data) (writeViews i addr data s) fun _ t => finish t 0#32
      | none => finish (writeViews i addr data s) 0#32

end Sys2Proof.Machine
end

