-- ==== Sys2Proof/Machine/Engine.lean ====
section
/-! DEFINITION. The invocation of an engine behaviour (spec/41_dispatch.md R121 to R130): the behaviour writes the working
context and makes bus accesses, each served at once as the nested command of the same name (R85, R130). -/

namespace Sys2Proof.Machine

/-- The command a bus access is: opcode 0x18 + kind; kinds 6 and 7 are BAD_COMMAND (R85). -/
def busCommand (nest : Nest) (kind : BitVec 3) (addr : Addr) (wdata : Byte) (s : State) : Out :=
  match kind.toNat with
  | 0 => readByteBy nest addr s
  | 1 => writeByteBy nest addr wdata s
  | 2 => readOpBy nest addr s
  | 3 => readArgBy nest addr s
  | 4 => readPortBy nest addr s
  | 5 => writePortBy nest addr wdata s
  | _ => violation s .badCommand

/-- A bus access with its answer on port EBUS: rdata is RES[7:0] (R85). A violation ends the access and not the
command whose behaviour makes it (log entry 14). -/
def busAccess (nest : Nest) (kind : BitVec 3) (addr : Addr) (wdata : Byte) (s : State) : Out :=
  andThen (busCommand nest kind addr wdata s) fun t => .next (t.log (.ebus kind addr wdata (busData t.res)))

/-- The acts of an engine behaviour, in order (R122 to R125, R130). -/
def engineActs (nest : Nest) : List EngineAct → State → Out
  | [], s => .next s
  | .setContext c :: rest, s => engineActs nest rest (s.setWctx (.live c))
  | .access kind addr wdata :: rest, s => andThen (busAccess nest kind addr wdata s) (engineActs nest rest)

/-- `Engine.call()` of the active instance's bundle (R121): the call on port ECTL, the behaviour's acts, its count. -/
def invoke (nest : Nest) (call : EngineCall) (s : State) (k : Cycles → State → Out) : Out :=
  withActive s fun a i =>
    withContext s fun c =>
      andThen
        (engineActs nest (nextEngine s (routineOf i.variant call) call c).1.acts
          ((nextEngine s (routineOf i.variant call) call c).2.log (.ectl a (routineOf i.variant call) call)))
        fun t => k (nextEngine s (routineOf i.variant call) call c).1.consumed t

/-- A behaviour whose return value no rule uses. -/
def invokeVoid (nest : Nest) (call : EngineCall) (s : State) (k : State → Out) : Out :=
  invoke nest call s fun _ t => k t

end Sys2Proof.Machine
end

