-- ==== Sys2Proof/Machine/Cycles.lean ====
section
/-! DEFINITION. spec/44_cycles.md: NEWFRAME, RUN, IDLE, GETCUR, GETSAVED (R200 to R206). Additions are modulo 2^32
(R206). -/

namespace Sys2Proof.Machine

/-- Every live slot with TOTAL zeroed; SEGMENT stays (R200, R25). -/
def zeroTotals (slots : Vector (Option Instance) Config.maxCpu) : Vector (Option Instance) Config.maxCpu :=
  slots.map fun slot => slot.map fun i => { i with total := 0#32 }

/-- NEWFRAME (R200). -/
def execNewFrame (s : State) : Out := checkInit s (finish ((s.setSlots (zeroTotals s.slots)).setCur 0#32) 0#32)

/-- RUN (R201): CUR is advanced once, after `execute` returns. -/
def runBy (nest : Nest) (n : Cycles) (s : State) : Out :=
  commonChecks s fun _ => invoke nest (.execute n) s fun c t => finish (t.setCur (t.cur + c)) c

/-- IDLE (R202). -/
def execIdle (n : Cycles) (s : State) : Out := commonChecks s fun _ => finish (s.setCur (s.cur + n)) 0#32

/-- GETCUR (R203). -/
def execGetCur (s : State) : Out := checkInit s (finish s s.cur)

/-- GETSAVED (R204). -/
def execGetSaved (b : BitVec 8) (s : State) : Out := checkInit s (checkLive s b fun _ i => finish s i.total)

end Sys2Proof.Machine
end

