-- ==== Sys2Proof/Machine/Interrupts.lean ====
section
/-! DEFINITION. spec/43_interrupts.md: the interrupt-line multiplexer, SETIRQ and SETIRQX (R180 to R187). -/

namespace Sys2Proof.Machine

/-- Engine.set_interrupt_line(line, level) (R125). -/
def setLine (nest : Nest) (line : BitVec 8) (level : Bool) (s : State) (k : State → Out) : Out :=
  invokeVoid nest (.setInterruptLine line level) s k

/-- `Apply(line, status)`: the case split of R181 to R185. The counts of AUTO's `execute(0)` are discarded. -/
def applyIrq (nest : Nest) (line : BitVec 8) (status : IrqStatus) (s : State) (k : State → Out) : Out :=
  match status with
  | .none => setLine nest line false s k
  | .ack => setLine nest line true s k
  | .auto =>
    if line = Config.lineNmi then
      setLine nest line true s fun t => setLine nest line false t k
    else
      setLine nest line true s fun t =>
        invokeVoid nest (.execute 0#32) t fun u =>
          setLine nest line false u fun v => invokeVoid nest (.execute 0#32) v k
  | .hold => invokeVoid nest .setHold s fun t => setLine nest line true t k

/-- SETIRQ (R180). -/
def setIrqBy (nest : Nest) (line : BitVec 8) (status : IrqStatus) (s : State) : Out :=
  commonChecks s fun _ => applyIrq nest line status s fun t => finish t 0#32

/-- The bracket of R186 on a target that is not active: CLOSE what is open, OPEN the target, apply, CLOSE, reopen. -/
def bracketed (nest : Nest) (target : Slot) (line : BitVec 8) (status : IrqStatus) (s : State) : Out :=
  match s.active with
  | none => doOpen s target fun t => applyIrq nest line status t fun u => doClose u fun v => finish v 0#32
  | some saved =>
    doClose s fun r =>
      doOpen r target fun t =>
        applyIrq nest line status t fun u => doClose u fun v => doOpen v saved fun w => finish w 0#32

/-- SETIRQX (R186). -/
def setIrqxBy (nest : Nest) (b line : BitVec 8) (status : IrqStatus) (s : State) : Out :=
  checkInit s <|
    checkLive s b fun target _ =>
      if s.active = some target then applyIrq nest line status s fun t => finish t 0#32
      else bracketed nest target line status s

end Sys2Proof.Machine
end

