-- ==== Sys2Proof/Machine/PageMap.lean ====
section
/-! DEFINITION. spec/42_pagemap.md: the configuration commands MAPRANGE, SETMASK, SETCB, SETREMAP (R140 to R143). -/

namespace Sys2Proof.Machine

/-- A configuration command: the active instance with `f` applied (R140 to R143). -/
def configure (s : State) (f : Instance → Instance) : Out :=
  withActive s fun a i => finish (s.setSlot a (some (f i))) 0#32

/-- MAPRANGE (R140). -/
def execMapRange (buffer : Option HostAddr) (start stop : Addr) (kinds : BitVec 3) (s : State) : Out :=
  commonChecks s fun _ => configure s fun i => i.mapRange buffer start stop kinds

/-- SETMASK (R141). -/
def execSetMask (mask : Addr) (s : State) : Out :=
  commonChecks s fun _ =>
    if maskOk mask then configure s fun i => { i with mask := mask } else violation s .badMask

/-- SETCB (R142); a selector of 6 or 7 is BAD_COMMAND, which comes before every other check (R82, R241). -/
def execSetCb (sel : BitVec 3) (handler : Option HandlerId) (s : State) : Out :=
  match selectorOf sel with
  | none => violation s .badCommand
  | some j => commonChecks s fun _ => configure s fun i => { i with cb := i.cb.set j.val handler j.isLt }

/-- SETREMAP (R143). -/
def execSetRemap (index value : Byte) (s : State) : Out :=
  commonChecks s fun _ => configure s fun i => { i with remap := i.remap.put index value }

end Sys2Proof.Machine
end

