-- ==== Sys2Proof/Machine/Passthrough.lean ====
section
/-! DEFINITION. spec/41_dispatch.md: the pass-through commands GETPC, GETPPC, CPURESET (R131 to R133). -/

namespace Sys2Proof.Machine

/-- GETPC (R131). -/
def execGetPc (s : State) : Out :=
  commonChecks s fun a =>
    withContext s fun c => finish (s.log (.ectl a .shared .getProgramCounter)) (Config.programCounter c)

/-- GETPPC (R132). -/
def execGetPpc (s : State) : Out :=
  commonChecks s fun a =>
    withContext s fun c =>
      finish (s.log (.ectl a .shared .getPreviousProgramCounter)) (Config.previousProgramCounter c)

/-- CPURESET (R133). -/
def cpuResetBy (nest : Nest) (s : State) : Out :=
  commonChecks s fun _ => invokeVoid nest .reset s fun t => finish t 0#32

end Sys2Proof.Machine
end

