-- ==== Sys2Proof/Machine/Registry.lean ====
section
/-! DEFINITION. spec/40_registry.md: CREATE, DESTROY, OPEN, CLOSE, GETACTIVE (R100 to R104). -/

namespace Sys2Proof.Machine

/-- The end of CREATE: as CLOSE for the new slot `a` (R100). -/
def createEnd (a : Slot) (s : State) : Out :=
  withInstance s a fun i =>
    withContext s fun c =>
      finish
        ((((s.setSlot a (some { i with rb := saveContext c, total := s.cur })).setWctx .poison).setActive none).log
          (.ectl a .shared .saveContext)) 0#32

/-- The state of CREATE when the new slot is filled and COUNT advanced (R100). -/
def createFilled (s : State) (a : Slot) (v : Variant) : State :=
  (s.setSlot a (some (Instance.fresh v))).setCount (s.count + 1#32)

/-- CREATE (R100): the checks, the fresh instance, COUNT, and init while the slot is temporarily active. -/
def createBy (nest : Nest) (s variant : BitVec 8) (st : State) : Out :=
  match slotOf s with
  | none => violation st .badSlot
  | some a =>
    if st.active ≠ none then violation st .doubleOpen
    else
      match variantOf variant with
      | none => violation st .badVariant
      | some v => doOpen (createFilled st a v) a fun t => invokeVoid nest .init t (createEnd a)

/-- DESTROY (R101). RES becomes 0, as the pseudocode of R101, R84 and D43 say; R271 and D20 say that DESTROY leaves RES
(DEDUCED, log entry 26). -/
def execDestroy (s : State) : Out :=
  if s.active ≠ none then violation s .destroyActive
  else finish ((s.setSlots (Vector.replicate Config.maxCpu none)).setCount 0#32) 0#32

/-- OPEN (R102). -/
def execOpen (b : BitVec 8) (s : State) : Out :=
  checkInit s <|
    checkLive s b fun a _ =>
      if s.active ≠ none then violation s .doubleOpen
      else doOpen s a fun t => finish t 0#32

/-- CLOSE (R103). -/
def execClose (s : State) : Out :=
  commonChecks s fun _ => doClose s fun t => finish t 0#32

/-- GETACTIVE (R104). -/
def execGetActive (s : State) : Out := checkInit s (finish s (activeResult s.active))

end Sys2Proof.Machine
end

