-- ==== Sys2Proof/Machine/Snapshot.lean ====
section
/-! DEFINITION. spec/45_snapshot.md: SCAN (R215 to R218). -/

namespace Sys2Proof.Machine

/-- An instance with the three fields the driver supplies (R215). -/
def Instance.restore (i : Instance) (d : SnapScript) : Instance :=
  { i with rb := d.rb, total := d.total, segment := d.segment }

/-- The record of one live slot: presented on SNAP, then the driver's nested commands, then, in the write direction,
the driver's values (R9, R215). -/
def scanRecord (nest : Nest) (write : Bool) (a : Slot) (i : Instance) (s : State) (k : State → Out) : Out :=
  andThen
    (snapCommands nest (nextSnap s a).1.commands
      ((nextSnap s a).2.log (.snap (Config.snapNaming.name a) i.rb i.total i.segment write)))
    fun t =>
      if write then withInstance t a fun j => k (t.setSlot a (some (j.restore (nextSnap s a).1))) else k t

/-- The slots of a SCAN, in ascending order; an absent slot has no record (R215). Whether a slot is live is read when the
scan reaches it, not when the SCAN begins (DESIGN CHOICE, log entry 25): the two differ only where the driver's nested
CREATE or DESTROY changes which slots are live. -/
def scanSlots (nest : Nest) (write : Bool) : List Slot → State → Out
  | [], s => finish s 0#32
  | a :: rest, s =>
    match s.slot a with
    | none => scanSlots nest write rest s
    | some i => scanRecord nest write a i s (scanSlots nest write rest)

/-- SCAN (R215): a no-op but for RES when `driver` is 0. -/
def scanBy (nest : Nest) (driver write : Bool) (s : State) : Out :=
  checkInit s (if driver then scanSlots nest write (List.finRange Config.maxCpu) s else finish s 0#32)

end Sys2Proof.Machine
end

