-- ==== Sys2Proof/Machine/Nested.lean ====
section
/-! DEFINITION. Nested commands (spec/41_dispatch.md R135, spec/00_scope.md R9): a command that a handler or the snapshot
driver issues has the same checks and the same effect as at top level, inside the command that waits for it. -/

namespace Sys2Proof.Machine

/-- A nested RUN: refused by name only when the parameter NESTED_RUN_ALLOWED is false (U6, R201 corner d). -/
def nestedRun (nest : Nest) (n : Cycles) (s : State) : Out :=
  if Config.nestedRunAllowed then runBy nest n s else .refused .nestedRun

/-- The effect of a nested command, given how the commands nested in it are served. -/
def nestedCommand (nest : Nest) (i : Instr) (s : State) : Out :=
  match i with
  | .create b variant => createBy nest b variant s
  | .destroy => execDestroy s
  | .openSlot b => execOpen b s
  | .close => execClose s
  | .getActive => execGetActive s
  | .getPc => execGetPc s
  | .getPpc => execGetPpc s
  | .cpuReset => cpuResetBy nest s
  | .mapRange buffer start stop kinds => execMapRange buffer start stop kinds s
  | .setMask mask => execSetMask mask s
  | .setCb sel handler => execSetCb sel handler s
  | .setRemap index value => execSetRemap index value s
  | .readByte addr => readByteBy nest addr s
  | .writeByte addr data => writeByteBy nest addr data s
  | .readOp addr => readOpBy nest addr s
  | .readArg addr => readArgBy nest addr s
  | .readPort addr => readPortBy nest addr s
  | .writePort addr data => writePortBy nest addr data s
  | .writeRom addr data => writeRomBy nest addr data s
  | .setIrq line status => setIrqBy nest line status s
  | .setIrqx b line status => setIrqxBy nest b line status s
  | .newFrame => execNewFrame s
  | .run n => nestedRun nest n s
  | .idle n => execIdle n s
  | .getCur => execGetCur s
  | .getSaved b => execGetSaved b s
  | .scan driver write => scanBy nest driver write s

/-- A word on port CMD, nested: a word that spells no command is BAD_COMMAND (R82, R83, R238). -/
def nestedWord (nest : Nest) (cw : CommandWord) (s : State) : Out :=
  andThen
    (match decode cw with
      | .ok i => nestedCommand nest i s
      | .rejected _ => violation s .badCommand)
    answer

/-- Nested commands served to the depth `d`. The spec bounds the depth by the handlers' behaviour only (R134); every
nested command comes from a script that has been taken from State, so `State.scripts` levels are enough and the fault
of level 0 is raised by no run (log entry 17). -/
def serveNested : Nat → Nest
  | 0 => fun _ _ => .fault .nestingDepth
  | d + 1 => nestedWord (serveNested d)

/-- How the commands nested in a command that begins in `s` are served. -/
def State.nest (s : State) : Nest := serveNested s.scripts

end Sys2Proof.Machine
end

