-- ==== Sys2Proof/Machine/Meanings.lean ====
section
/-! DEFINITION. The meanings of the commands during which a handler, an engine behaviour or the snapshot driver may run:
the shared operations of the family files with nested commands served (R134, R135). The other commands have their
meanings in the family files. -/

namespace Sys2Proof.Machine

/-- CREATE (R100). -/
def execCreate (b variant : BitVec 8) (s : State) : Out := createBy s.nest b variant s

/-- CPURESET (R133). -/
def execCpuReset (s : State) : Out := cpuResetBy s.nest s

/-- READBYTE (R144). -/
def execReadByte (addr : Addr) (s : State) : Out := readByteBy s.nest addr s

/-- WRITEBYTE (R145). -/
def execWriteByte (addr : Addr) (data : Byte) (s : State) : Out := writeByteBy s.nest addr data s

/-- READOP (R146). -/
def execReadOp (addr : Addr) (s : State) : Out := readOpBy s.nest addr s

/-- READARG (R147). -/
def execReadArg (addr : Addr) (s : State) : Out := readArgBy s.nest addr s

/-- READPORT (R148). -/
def execReadPort (addr : Addr) (s : State) : Out := readPortBy s.nest addr s

/-- WRITEPORT (R149). -/
def execWritePort (addr : Addr) (data : Byte) (s : State) : Out := writePortBy s.nest addr data s

/-- WRITEROM (R150). -/
def execWriteRom (addr : Addr) (data : Byte) (s : State) : Out := writeRomBy s.nest addr data s

/-- SETIRQ (R180). -/
def execSetIrq (line : BitVec 8) (status : IrqStatus) (s : State) : Out := setIrqBy s.nest line status s

/-- SETIRQX (R186). -/
def execSetIrqx (b line : BitVec 8) (status : IrqStatus) (s : State) : Out := setIrqxBy s.nest b line status s

/-- RUN (R201). -/
def execRun (n : Cycles) (s : State) : Out := runBy s.nest n s

/-- SCAN (R215). -/
def execScan (driver write : Bool) (s : State) : Out := scanBy s.nest driver write s

end Sys2Proof.Machine
end

