-- ==== Sys2Proof/Machine/Dispatch.lean ====
section
/-! DEFINITION. One arm per row of spec/opcode_table.json. -/

namespace Sys2Proof.Machine

def exec (i : Instr) (s : State) : Host.Outcome State Fault Refusal :=
  match i with
  -- spec/40_registry.md
  | .create b variant => Sys2Proof.Machine.execCreate b variant s
  | .destroy => Sys2Proof.Machine.execDestroy s
  | .openSlot b => Sys2Proof.Machine.execOpen b s
  | .close => Sys2Proof.Machine.execClose s
  | .getActive => Sys2Proof.Machine.execGetActive s
  -- spec/41_dispatch.md
  | .getPc => Sys2Proof.Machine.execGetPc s
  | .getPpc => Sys2Proof.Machine.execGetPpc s
  | .cpuReset => Sys2Proof.Machine.execCpuReset s
  -- spec/42_pagemap.md
  | .mapRange buffer start stop kinds => Sys2Proof.Machine.execMapRange buffer start stop kinds s
  | .setMask mask => Sys2Proof.Machine.execSetMask mask s
  | .setCb sel handler => Sys2Proof.Machine.execSetCb sel handler s
  | .setRemap index value => Sys2Proof.Machine.execSetRemap index value s
  | .readByte addr => Sys2Proof.Machine.execReadByte addr s
  | .writeByte addr data => Sys2Proof.Machine.execWriteByte addr data s
  | .readOp addr => Sys2Proof.Machine.execReadOp addr s
  | .readArg addr => Sys2Proof.Machine.execReadArg addr s
  | .readPort addr => Sys2Proof.Machine.execReadPort addr s
  | .writePort addr data => Sys2Proof.Machine.execWritePort addr data s
  | .writeRom addr data => Sys2Proof.Machine.execWriteRom addr data s
  -- spec/43_interrupts.md
  | .setIrq line status => Sys2Proof.Machine.execSetIrq line status s
  | .setIrqx b line status => Sys2Proof.Machine.execSetIrqx b line status s
  -- spec/44_cycles.md
  | .newFrame => Sys2Proof.Machine.execNewFrame s
  | .run n => Sys2Proof.Machine.execRun n s
  | .idle n => Sys2Proof.Machine.execIdle n s
  | .getCur => Sys2Proof.Machine.execGetCur s
  | .getSaved b => Sys2Proof.Machine.execGetSaved b s
  -- spec/45_snapshot.md
  | .scan driver write => Sys2Proof.Machine.execScan driver write s

end Sys2Proof.Machine
end

