-- ==== Sys2Proof/Machine/Step.lean ====
section
/-! DEFINITION. One step: the HOST's next input is taken and carried out to completion (spec/00_scope.md R9). With no
input the block waits and nothing changes: "the block executes nothing until the first command" (R270). -/

namespace Sys2Proof.Machine

/-- A word on port CMD at top level: its command, or BAD_COMMAND (R238), and then `done`. -/
def runWord (cw : CommandWord) (s : State) : Host.Outcome State Fault Refusal :=
  andThen
    (match decode cw with
      | .ok i => exec i s
      | .rejected _ => violation s .badCommand)
    answer

/-- One step of the machine. -/
def step (s : State) : Host.Outcome State Fault Refusal :=
  match s.env.hostIn with
  | [] => .next s
  | .command cw :: rest => runWord cw (s.setHostIn rest)
  | .hostWrite h v :: rest => .next ((s.setHostIn rest).pokeHost h v)
  | .hardwareReset :: rest => .next (s.setHostIn rest).hardwareReset

/-- `s` with a command word in front of the HOST's inputs, where `step` takes its next command (log entry 1). -/
def State.withCommand (s : State) (cw : CommandWord) : State := s.setHostIn (.command cw :: s.env.hostIn)

/-- `s` with the table's word as the next command; the bits above `nbits` are 0. -/
def State.withFetchWord (s : State) (nbits w : Nat) : State := s.withCommand (BitVec.ofNat Config.cwW (w % 2 ^ nbits))

end Sys2Proof.Machine
end

