-- ==== Sys2Proof/Safety.lean ====
section
/-! DEFINITION. What claims about the machine are stated in: a clean run (spec/60_exceptions.md R230), the single-active
invariant (spec/10_state.md R26), which violations a command raises (R231, R241), and the conditions on the queued inputs
of the environment under which a command runs to its end. -/

namespace Sys2Proof.Machine

/-- No contract violation has been recorded: the premise R230 asks every claim about the block to take. -/
def State.Clean (s : State) : Prop := s.viol = none

/-- The single-active invariant in state terms (R26): with an active slot, that slot is live and WCTX is not POISON;
with none, WCTX is POISON. -/
def State.SingleActive (s : State) : Prop :=
  match s.active with
  | none => s.wctx = .poison
  | some a => s.slot a ≠ none ∧ s.wctx ≠ .poison

/-- Host memory is in canonical form. -/
def State.MemWf (s : State) : Prop := HostMem.wf s.env.mem = true

/-- Every live slot's MASK is one SETMASK accepts, or still MASK_INIT (R21). -/
def State.MasksLegal (s : State) : Prop :=
  ∀ a i, s.slot a = some i → maskOk i.mask = true ∨ i.mask = Config.maskInit

/-- The block is initialised and slot `a` is active with instance `i`: the checks of spec/42_pagemap.md pass. -/
structure State.Opened (s : State) (a : Slot) (i : Instance) : Prop where
  count : s.count ≠ 0#32
  active : s.active = some a
  slot : s.slot a = some i

/-- The same with the working context `c`, for the commands that invoke the engine. -/
structure State.Ready (s : State) (a : Slot) (i : Instance) (c : Ctx) : Prop extends State.Opened s a i where
  wctx : s.wctx = .live c

/-- All the block's state but RES is the same; the environment may differ. -/
structure State.SameBlock (s t : State) : Prop where
  count : t.count = s.count
  active : t.active = s.active
  slots : t.slots = s.slots
  cur : t.cur = s.cur
  wctx : t.wctx = s.wctx
  viol : t.viol = s.viol

/-- The same but for WCTX and CUR too: the frame of a command that invokes the engine. -/
structure State.SameButContext (s t : State) : Prop where
  count : t.count = s.count
  active : t.active = s.active
  slots : t.slots = s.slots
  viol : t.viol = s.viol

/-- Commands one after another, as at top level. -/
def execAll : List Instr → State → Out
  | [], s => .next s
  | i :: rest, s => andThen (exec i s) (execAll rest)

/-- A command that waits for the handler `id`: the transfer on port CB, the handler's acts, the check of ACTIVE at its
answer, and then the rest `k` of the command (R151, R239). -/
def afterHandler (s : State) (id : HandlerId) (sel : CbIndex) (a : Addr) (d : Option Byte) (k : Byte → State → Out) :
    Out :=
  andThen (handlerActs s.nest (nextHandler s id sel a).1.acts ((nextHandler s id sel a).2.log (.cb id sel a d))) fun t =>
    if t.active = s.active then k (nextHandler s id sel a).1.answer t else .next (t.violate .activeChanged)

/-- Engine behaviours of the active instance invoked one after another, their counts discarded (R121, R247). -/
def invokeAll (nest : Nest) : List EngineCall → State → Out
  | [], s => .next s
  | call :: rest, s => invokeVoid nest call s (invokeAll nest rest)

/-! Which violations a command raises (R231, R241). -/

/-- Every command but CREATE and DESTROY needs COUNT not 0 (R232). -/
def needsInit : Instr → Bool
  | .create _ _ | .destroy => false
  | _ => true

/-- The commands that target the active instance (R231, R234). -/
def needsActive : Instr → Bool
  | .close | .getPc | .getPpc | .cpuReset | .mapRange _ _ _ _ | .setMask _ | .setCb _ _ | .setRemap _ _
  | .readByte _ | .writeByte _ _ | .readOp _ | .readArg _ | .readPort _ | .writePort _ _ | .writeRom _ _
  | .setIrq _ _ | .run _ | .idle _ => true
  | _ => false

/-- The operand names a live slot. -/
def State.isLive (s : State) (b : BitVec 8) : Bool :=
  match slotOf b with
  | none => false
  | some a => (s.slot a).isSome

/-- The cause of each violation, for each command (R231 to R238, R240). -/
def raises (i : Instr) (s : State) : Violation → Bool
  | .badCommand => !i.wellFormed
  | .noInit => needsInit i && s.count == 0#32
  | .badSlot =>
    match i with
    | .create b _ => (slotOf b).isNone
    | .openSlot b | .setIrqx b _ _ | .getSaved b => !s.isLive b
    | _ => false
  | .doubleOpen =>
    match i with
    | .create _ _ | .openSlot _ => s.active.isSome
    | _ => false
  | .noActive => needsActive i && s.active.isNone
  | .destroyActive =>
    match i with
    | .destroy => s.active.isSome
    | _ => false
  | .badVariant =>
    match i with
    | .create _ v => (variantOf v).isNone
    | _ => false
  | .badMask =>
    match i with
    | .setMask m => !maskOk m
    | _ => false
  | .activeChanged => false

/-- The order of the checks (R241). -/
def checkOrder : List Violation :=
  [.badCommand, .noInit, .badSlot, .doubleOpen, .noActive, .destroyActive, .badVariant, .badMask]

/-- The violation a command raises before it changes anything: the first that applies (R241). -/
def firstViolation (i : Instr) (s : State) : Option Violation := checkOrder.find? (raises i s)

/-- The two common checks of a command on the active instance, NOINIT before NO_ACTIVE (R232, R234, R241). -/
def CommonViolations (i : Instr) : Prop :=
  ∀ s : State,
    (s.count = 0#32 → exec i s = .next (s.violate .noInit)) ∧
      (s.count ≠ 0#32 → s.active = none → exec i s = .next (s.violate .noActive))

/-! The opcode table: mnemonic, match and mask of each row of spec/opcode_table.json (R72). -/

def opcodeRows1 : List (String × CommandWord × CommandWord) :=
  [("CREATE", 0x01000000000000000000000000000000#128, 0xFF0000FFFFFFFFFFFFFFFFFFFFFFFFFF#128),
   ("DESTROY", 0x02000000000000000000000000000000#128, 0xFFFFFFFFFFFFFFFFFFFFFFFFFFFFFFFF#128),
   ("OPEN", 0x03000000000000000000000000000000#128, 0xFF00FFFFFFFFFFFFFFFFFFFFFFFFFFFF#128),
   ("CLOSE", 0x04000000000000000000000000000000#128, 0xFFFFFFFFFFFFFFFFFFFFFFFFFFFFFFFF#128),
   ("GETACTIVE", 0x05000000000000000000000000000000#128, 0xFFFFFFFFFFFFFFFFFFFFFFFFFFFFFFFF#128),
   ("GETPC", 0x08000000000000000000000000000000#128, 0xFFFFFFFFFFFFFFFFFFFFFFFFFFFFFFFF#128),
   ("GETPPC", 0x09000000000000000000000000000000#128, 0xFFFFFFFFFFFFFFFFFFFFFFFFFFFFFFFF#128),
   ("CPURESET", 0x0A000000000000000000000000000000#128, 0xFFFFFFFFFFFFFFFFFFFFFFFFFFFFFFFF#128),
   ("MAPRANGE", 0x10000000000000000000000000000000#128, 0xFFFFF8FE000000000000000000000000#128)]

def opcodeRows2 : List (String × CommandWord × CommandWord) :=
  [("SETMASK", 0x11000000000000000000000000000000#128, 0xFFFFFFFF0000FFFFFFFFFFFFFFFFFFFF#128),
   ("SETCB", 0x12000000000000000000000000000000#128, 0xFFFFF8FEFFFFFFFF0000000000000000#128),
   ("SETREMAP", 0x13000000000000000000000000000000#128, 0xFFFF0000FFFFFFFFFFFFFFFFFFFFFFFF#128),
   ("READBYTE", 0x18000000000000000000000000000000#128, 0xFFFFFFFF0000FFFFFFFFFFFFFFFFFFFF#128),
   ("WRITEBYTE", 0x19000000000000000000000000000000#128, 0xFFFFFF000000FFFFFFFFFFFFFFFFFFFF#128),
   ("READOP", 0x1A000000000000000000000000000000#128, 0xFFFFFFFF0000FFFFFFFFFFFFFFFFFFFF#128),
   ("READARG", 0x1B000000000000000000000000000000#128, 0xFFFFFFFF0000FFFFFFFFFFFFFFFFFFFF#128),
   ("READPORT", 0x1C000000000000000000000000000000#128, 0xFFFFFFFF0000FFFFFFFFFFFFFFFFFFFF#128),
   ("WRITEPORT", 0x1D000000000000000000000000000000#128, 0xFFFFFF000000FFFFFFFFFFFFFFFFFFFF#128)]

def opcodeRows3 : List (String × CommandWord × CommandWord) :=
  [("WRITEROM", 0x1E000000000000000000000000000000#128, 0xFFFFFF000000FFFFFFFFFFFFFFFFFFFF#128),
   ("SETIRQ", 0x20000000000000000000000000000000#128, 0xFFFF00FCFFFFFFFFFFFFFFFFFFFFFFFF#128),
   ("SETIRQX", 0x21000000000000000000000000000000#128, 0xFF0000FCFFFFFFFFFFFFFFFFFFFFFFFF#128),
   ("NEWFRAME", 0x28000000000000000000000000000000#128, 0xFFFFFFFFFFFFFFFFFFFFFFFFFFFFFFFF#128),
   ("RUN", 0x29000000000000000000000000000000#128, 0xFFFFFFFFFFFFFFFFFFFFFFFF00000000#128),
   ("IDLE", 0x2A000000000000000000000000000000#128, 0xFFFFFFFFFFFFFFFFFFFFFFFF00000000#128),
   ("GETCUR", 0x2B000000000000000000000000000000#128, 0xFFFFFFFFFFFFFFFFFFFFFFFFFFFFFFFF#128),
   ("GETSAVED", 0x2C000000000000000000000000000000#128, 0xFF00FFFFFFFFFFFFFFFFFFFFFFFFFFFF#128),
   ("SCAN", 0x30000000000000000000000000000000#128, 0xFFFFFCFFFFFFFFFFFFFFFFFFFFFFFFFF#128)]

/-- The 27 rows. -/
def opcodeTable : List (String × CommandWord × CommandWord) := opcodeRows1 ++ opcodeRows2 ++ opcodeRows3

/-- The mnemonic of a command, that of its row. -/
def mnemonicOf : Instr → String
  | .create _ _ => "CREATE"
  | .destroy => "DESTROY"
  | .openSlot _ => "OPEN"
  | .close => "CLOSE"
  | .getActive => "GETACTIVE"
  | .getPc => "GETPC"
  | .getPpc => "GETPPC"
  | .cpuReset => "CPURESET"
  | .mapRange _ _ _ _ => "MAPRANGE"
  | .setMask _ => "SETMASK"
  | .setCb _ _ => "SETCB"
  | .setRemap _ _ => "SETREMAP"
  | .readByte _ => "READBYTE"
  | .writeByte _ _ => "WRITEBYTE"
  | .readOp _ => "READOP"
  | .readArg _ => "READARG"
  | .readPort _ => "READPORT"
  | .writePort _ _ => "WRITEPORT"
  | .writeRom _ _ => "WRITEROM"
  | .setIrq _ _ => "SETIRQ"
  | .setIrqx _ _ _ => "SETIRQX"
  | .newFrame => "NEWFRAME"
  | .run _ => "RUN"
  | .idle _ => "IDLE"
  | .getCur => "GETCUR"
  | .getSaved _ => "GETSAVED"
  | .scan _ _ => "SCAN"

/-- The 229 values of `op` that are no command (R83). -/
def illegalOpcode (op : Nat) : Bool :=
  op == 0x00 || (0x06 ≤ op && op ≤ 0x07) || (0x0B ≤ op && op ≤ 0x0F) || (0x14 ≤ op && op ≤ 0x17) || op == 0x1F ||
    (0x22 ≤ op && op ≤ 0x27) || (0x2D ≤ op && op ≤ 0x2F) || 0x31 ≤ op

/-- The sub-field conditions of R82: SETCB with sel 6 or 7, MAPRANGE or SETCB with nul = 1 and w not 0. -/
def illegalSubField (f : Fields) : Bool :=
  (f.op == 0x12#8 && 6 ≤ f.x.toNat % 8) || ((f.op == 0x10#8 || f.op == 0x12#8) && f.y.getLsbD 0 && f.w != 0#64)

/-- A page table after MAPRANGE with one bit of `kinds` (R140): in the range, null for a null buffer, else
`buffer + (p - p0) * 256`, exact where R43's duty is kept; outside the range, or when the bit is 0, as before. -/
def TableMapped (selected : Bool) (buffer : Option HostAddr) (start stop : Addr) (old new : PageTable) : Prop :=
  ∀ p : BitVec 8,
    if selected = true ∧ start.toNat / 256 ≤ p.toNat ∧ p.toNat ≤ stop.toNat / 256 then
      match buffer with
      | none => new.entry p = none
      | some base =>
        ∃ e, new.entry p = some e ∧
          (base.toNat + (p.toNat - start.toNat / 256) * 256 < 2 ^ 64 →
            e.toNat = base.toNat + (p.toNat - start.toNat / 256) * 256)
    else new.entry p = old.entry p

/-- The HMEM transfers among port transfers. -/
def hmemCount (ports : List PortEvent) : Nat :=
  ports.countP fun e => match e with
    | .hread _ _ | .hwrite _ _ => true
    | _ => false

/-- The CB transfers among port transfers. -/
def cbCount (ports : List PortEvent) : Nat :=
  ports.countP fun e => match e with
    | .cb _ _ _ _ => true
    | _ => false

/-! Conditions on the queued inputs of the environment. -/

/-- A handler's act that is no nested command. -/
def HandlerAct.isWrite : HandlerAct → Bool
  | .hostWrite _ _ => true
  | .command _ => false

/-- An engine's act with a legal bus kind (R85). -/
def EngineAct.isLegal : EngineAct → Bool
  | .setContext _ => true
  | .access kind _ _ => kind.toNat < 6

/-- An engine behaviour's acts with no bus access among them. -/
def noAccess (acts : List EngineAct) : Bool :=
  acts.all fun act =>
    match act with
    | .setContext _ => true
    | .access _ _ _ => false

/-- No queued handler or snapshot script issues a nested command and no queued engine script makes an illegal bus
access. Handlers may still answer any byte and change host memory, and engines may make any legal accesses. -/
def State.quiet (s : State) : Bool :=
  s.env.handlerIn.all (fun h => h.acts.all HandlerAct.isWrite) && s.env.snapIn.all (fun d => d.commands.isEmpty) &&
    s.env.engineIn.all (fun e => e.acts.all EngineAct.isLegal)

/-- The word is neither CLOSE nor DESTROY. -/
def keepsBracket (cw : CommandWord) : Bool := decode cw ≠ .ok .close && decode cw ≠ .ok .destroy

/-- No queued script issues a nested CLOSE or DESTROY: the contract of R135 on handlers, as a condition on what they
issue. -/
def State.contractKept (s : State) : Bool :=
  s.env.handlerIn.all (fun h => h.acts.all fun act =>
    match act with
    | .command cw => keepsBracket cw
    | .hostWrite _ _ => true) &&
  s.env.snapIn.all (fun d => d.commands.all keepsBracket)

/-! What scripts without nested commands do. -/

/-- The host writes of a handler's acts, in order. -/
def State.pokeAll (s : State) : List HandlerAct → State
  | [] => s
  | .hostWrite h v :: rest => (s.pokeHost h v).pokeAll rest
  | .command _ :: rest => s.pokeAll rest

/-- The working context an engine behaviour leaves when no nested command replaces it: the last one it wrote. -/
def contextAfter : List EngineAct → Ctx → Ctx
  | [], c => c
  | .setContext c :: rest, _ => contextAfter rest c
  | .access _ _ _ :: rest, c => contextAfter rest c

/-- The live slots below `a`, in ascending order. -/
def State.liveBelow (s : State) (a : Slot) : List Slot :=
  (List.finRange Config.maxCpu).filter fun b => b < a ∧ (s.slot b).isSome

/-- The records a SCAN presents: one per live slot, in ascending order (R215). -/
def scanRecords (s : State) (write : Bool) : List PortEvent :=
  (List.finRange Config.maxCpu).filterMap fun a =>
    (s.slot a).map fun i => .snap (Config.snapNaming.name a) i.rb i.total i.segment write

/-- The engine calls among port transfers, in order. -/
def ectlCalls : List PortEvent → List (Slot × EngineCall)
  | [] => []
  | .ectl a _ call :: rest => (a, call) :: ectlCalls rest
  | .ebus _ _ _ _ :: rest | .hread _ _ :: rest | .hwrite _ _ :: rest | .cb _ _ _ _ :: rest
  | .snap _ _ _ _ _ :: rest | .warn _ :: rest | .done _ :: rest => ectlCalls rest

/-- The engine calls of `Apply(line, status)`, in order (R181 to R185). -/
def irqCalls (line : BitVec 8) : IrqStatus → List EngineCall
  | .none => [.setInterruptLine line false]
  | .ack => [.setInterruptLine line true]
  | .auto =>
    if line = Config.lineNmi then [.setInterruptLine line true, .setInterruptLine line false]
    else [.setInterruptLine line true, .execute 0#32, .setInterruptLine line false, .execute 0#32]
  | .hold => [.setHold, .setInterruptLine line true]

end Sys2Proof.Machine
end

