-- ==== Sys2Proof/Certificates/Slice0/Obligations.lean ====
section
/-! DEFINITION. The statements about the machine, for the provers. OBLIGATIONS.json says of each which rule of spec/ it
formalises. A statement about what the engine, a handler or the snapshot driver does holds for every behaviour that
their queued scripts, or the free values of Config, can spell. -/

section
open Sys2Proof Sys2Proof.Machine

/-! ## Reset, steps and the ports of the HOST -/

/-- R31, R270: the values after hardware reset; the block executes nothing until the first command; the reset leaves the
environment alone. -/
def Obligations.HardwareResetValues : Prop :=
  (State.reset.count = 0#32 ∧ State.reset.active = none ∧ (∀ a, State.reset.slot a = none) ∧ State.reset.cur = 0#32 ∧
      State.reset.wctx = .poison ∧ State.reset.viol = none ∧ State.reset.res = 0#32) ∧
    (∀ s : State, s.env.hostIn = [] → step s = .next s) ∧
    ∀ (s : State) (rest : List HostAct), s.env.hostIn = .hardwareReset :: rest →
      step s = .next { State.reset with env := { s.env with hostIn := rest } }

/-- A step whose next input is a word that decodes to `i` is exec of `i`, then `done` with RES (R9, R70); the same for the
word that withFetchWord places. How the word reaches the step is the model's choice (log entry 1). -/
def Obligations.StepRunsDecodedCommand : Prop :=
  (∀ (s : State) (cw : CommandWord) (rest : List HostAct) (i : Instr), s.env.hostIn = .command cw :: rest →
      decode cw = .ok i →
      step s = andThen (exec i (s.setHostIn rest)) fun t => .next (t.log (.done t.res))) ∧
    ∀ (s : State) (nbits w : Nat) (i : Instr), decodeTableWord nbits w = some i →
      step (s.withFetchWord nbits w) = andThen (exec i s) fun t => .next (t.log (.done t.res))

/-- The HOST changes one byte of host memory between commands and nothing else (R43; log entry 1). -/
def Obligations.HostWriteBetweenCommands : Prop :=
  ∀ (s : State) (h : HostAddr) (v : Byte) (rest : List HostAct), s.env.hostIn = .hostWrite h v :: rest →
    ∃ t, step s = .next t ∧ s.SameBlock t ∧ t.res = s.res ∧
      t.env = { s.env with hostIn := rest, mem := t.env.mem } ∧
      (∀ g, g ≠ h → t.hostByte g = s.hostByte g) ∧ (s.MemWf → t.hostByte h = v ∧ t.MemWf)

/-! ## Encoding -/

/-- R82, R238: a word that matches no row, or has an illegal sub-field, raises BAD_COMMAND and changes no other state, at
top level and nested; so does a bus access of kind 6 or 7. -/
def Obligations.IllegalWordRaisesBadCommand : Prop :=
  (∀ cw : CommandWord,
      ((∀ r ∈ opcodeTable, cw &&& r.2.2 ≠ r.2.1) ∨ illegalSubField (splitFields cw) = true) →
      (∀ (s : State) (rest : List HostAct), s.env.hostIn = .command cw :: rest →
          step s = answer ((s.setHostIn rest).violate .badCommand)) ∧
        ∀ (s : State) (d : Nat), serveNested (d + 1) cw s = answer (s.violate .badCommand)) ∧
    ∀ (s : State) (d : Nat) (kind : BitVec 3) (addr : Addr) (wdata : Byte), 6 ≤ kind.toNat →
      busCommand (serveNested d) kind addr wdata s = .next (s.violate .badCommand)

/-- R83: the 229 unknown opcodes, and no others, are rejected as such and raise BAD_COMMAND. -/
def Obligations.UnknownOpcodesRejected : Prop :=
  ((List.range 256).filter illegalOpcode).length = 229 ∧
    (∀ cw : CommandWord,
      illegalOpcode (splitFields cw).op.toNat = true ↔ decode cw = .rejected .unknownOpcode) ∧
    ∀ (s : State) (cw : CommandWord) (rest : List HostAct), s.env.hostIn = .command cw :: rest →
      illegalOpcode (splitFields cw).op.toNat = true → step s = answer ((s.setHostIn rest).violate .badCommand)

/-- R72: a word spells the command of a row when it matches the row, the sub-fields of R82 being legal. -/
def Obligations.AcceptedWordsMatchTable : Prop :=
  opcodeTable.length = 27 ∧ (opcodeTable.map fun r => r.1).Nodup ∧
    ∀ (cw : CommandWord), ∀ r ∈ opcodeTable,
      (∃ i, decode cw = .ok i ∧ mnemonicOf i = r.1) ↔
        cw &&& r.2.2 = r.2.1 ∧ illegalSubField (splitFields cw) = false

/-- Words written out from R70 to R81 decode to the commands they stand for. -/
def Obligations.SampleWordsDecode : Prop :=
  decode 0x01020300000000000000000000000000#128 = .ok (.create 2#8 3#8) ∧
    decode 0x03050000000000000000000000000000#128 = .ok (.openSlot 5#8) ∧
    decode 0x08000000000000000000000000000000#128 = .ok .getPc ∧
    decode 0x100005008000BFFF0000000012340000#128 =
      .ok (.mapRange (some 0x12340000#64) 0x8000#16 0xBFFF#16 5#3) ∧
    decode 0x10000701000000FF0000000000000000#128 = .ok (.mapRange none 0x0000#16 0x00FF#16 7#3) ∧
    decode 0x19005AFF001000000000000000000000#128 = .rejected .mustBeZero ∧
    decode 0x1900005A001000000000000000000000#128 = .ok (.writeByte 0x0010#16 0x5A#8) ∧
    decode 0x21052002000000000000000000000000#128 = .ok (.setIrqx 5#8 0x20#8 .auto) ∧
    decode 0x290000000000000000000000FFFFFFFF#128 = .ok (.run 0xFFFFFFFF#32) ∧
    decode 0x30000300000000000000000000000000#128 = .ok (.scan true true)

/-- Decoding the word of a well-formed command gives it back, with every operand at every value. -/
def Obligations.DecodeOfEncode : Prop :=
  ∀ i : Instr, i.wellFormed = true → decode (encode i) = .ok i

/-- A word that decodes is the word of the command it decodes to, which is well formed: no two words spell one
command. -/
def Obligations.EncodeOfDecode : Prop :=
  ∀ (cw : CommandWord) (i : Instr), decode cw = .ok i → i.wellFormed = true ∧ encode i = cw

/-! ## Contract violations -/

/-- R16, R243: a violation records its code unless one is recorded, pulses WARN, and no step but the hardware reset
clears or replaces what is recorded. -/
def Obligations.ViolationIsSticky : Prop :=
  (∀ (s : State) (v : Violation),
      (s.violate v).viol = s.viol.or (some v) ∧ (s.violate v).env = { s.env with ports := s.env.ports ++ [.warn v] }) ∧
    (∀ (s t : State) (v : Violation), step s = .next t → s.viol = some v →
      t.viol = some v ∨ ∃ rest, s.env.hostIn = .hardwareReset :: rest) ∧
    ∀ (s : State) (rest : List HostAct), s.env.hostIn = .hardwareReset :: rest → ∃ t, step s = .next t ∧ t.viol = none

/-- R230, R241 with R232 to R237 and R240: of the checks that fail, the first in the order of R241 is the one raised; it
records its code, pulses WARN, sets RES, and no other state is changed. -/
def Obligations.FirstViolationRaised : Prop :=
  ∀ (i : Instr) (s : State) (v : Violation), firstViolation i s = some v →
    exec i s = .next
      { s with viol := s.viol.or (some v), res := 0xFFFFFFFF#32
               env := { s.env with ports := s.env.ports ++ [.warn v] } }

/-! ## Invariants and completion -/

/-- After reset: the single-active invariant, legal masks and no violation (R26, R31). That host memory is then canonical and
no script is queued, so that the conditions `contractKept` and `quiet` hold, is the model's choice of the world around
the block (log entries 2 to 5; R31 leaves it unspecified). -/
def Obligations.ResetMeetsInvariants : Prop :=
  State.reset.SingleActive ∧ State.reset.MemWf ∧ State.reset.MasksLegal ∧ State.reset.Clean ∧
    State.reset.contractKept = true ∧ State.reset.quiet = true

/-- Every step keeps host memory in its canonical form, whatever engine and handlers do. The form, addresses rising and no
entry equal to what an unlisted byte reads as, is the model's choice (log entry 2); the spec gives host memory as a
total map and no form of it. -/
def Obligations.StepKeepsMemoryCanonical : Prop :=
  ∀ s t : State, s.MemWf → step s = .next t → t.MemWf

/-- R26: the single-active invariant is kept by every step after which VIOL is none, whatever nested commands were
issued. -/
def Obligations.StepKeepsSingleActive : Prop :=
  ∀ s t : State, s.SingleActive → step s = .next t → t.viol = none → t.SingleActive

/-- R21: every live slot's MASK is one SETMASK accepts, or still MASK_INIT. -/
def Obligations.StepKeepsMasksLegal : Prop :=
  ∀ s t : State, s.MasksLegal → step s = .next t → t.MasksLegal

/-- A step stops in no state in which the single-active invariant holds and the queued handlers keep their contract
(R135, no nested CLOSE or DESTROY): it answers a next state, and these two conditions hold there again (R282). -/
def Obligations.StepCompletesUnderContract : Prop :=
  ∀ s : State, s.SingleActive → s.contractKept = true →
    ∃ t, step s = .next t ∧ t.SingleActive ∧ t.contractKept = true

/-- No step, from any state, refuses an instruction or uses up the bound on nested commands (log entries 11, 17). -/
def Obligations.NeverRefusesNorExhaustsNesting : Prop :=
  ∀ s : State, step s ≠ .fault .nestingDepth ∧ ∀ r, step s ≠ .refused r

/-- R135: a nested command has exactly the same checks and the same effect as at top level. That this holds of a nested RUN
rests on the model's choice for NESTED_RUN_ALLOWED (log entry 11), and the depth it is served at, which must exceed the
number of queued scripts, on its bound on nesting (log entry 17). -/
def Obligations.NestedSameAsTopLevel : Prop :=
  ∀ (d : Nat) (s : State) (cw : CommandWord), s.scripts < d → serveNested d cw s = runWord cw s

/-- Every command none of whose checks fails runs to its end and records no violation, when the single-active invariant
holds and the queued scripts issue no nested command and no illegal bus access. A CREATE that wraps COUNT to 0 is left
out: its init would then find the block uninitialised (log entry 23). -/
def Obligations.CompletesWithoutViolation : Prop :=
  ∀ (i : Instr) (s : State), firstViolation i s = none → s.SingleActive → s.quiet = true →
    ((∃ b v, i = .create b v) → s.count + 1#32 ≠ 0#32) →
    ∃ t, exec i s = .next t ∧ t.viol = s.viol

/-! ## The registry (spec/40_registry.md) -/

/-- R100, R32, R124: CREATE. -/
def Obligations.CreateEffect : Prop :=
  (∀ (s : State) (b vb : BitVec 8), 8 ≤ b.toNat → exec (.create b vb) s = .next (s.violate .badSlot)) ∧
    (∀ (s : State) (b vb : BitVec 8), b.toNat < 8 → s.active ≠ none →
      exec (.create b vb) s = .next (s.violate .doubleOpen)) ∧
    (∀ (s : State) (b vb : BitVec 8), b.toNat < 8 → s.active = none → 4 ≤ vb.toNat →
      exec (.create b vb) s = .next (s.violate .badVariant)) ∧
    ∀ (s : State) (b vb : BitVec 8) (a : Slot) (v : Variant), b.toNat = a.val → s.active = none →
      variantOf vb = some v →
      ∃ t i new, exec (.create b vb) s = .next t ∧ t.slot a = some i ∧
        i.rb = contextAfter (nextEngine s (routineOf v .init) .init Ctx.zero).1.acts Ctx.zero ∧
        i.variant = v ∧ (∀ x, i.remap.entry x = if isScrambled v = true then scramble x else x) ∧
        i.mask = Config.maskInit ∧ (∀ p, i.rd.entry p = none ∧ i.wr.entry p = none ∧ i.fe.entry p = none) ∧
        (∀ j : CbIndex, i.cb[j] = none) ∧ i.total = 0#32 ∧ i.segment = 0#32 ∧
        (∀ c, c ≠ a → t.slot c = s.slot c) ∧ t.count = s.count + 1#32 ∧ t.active = none ∧ t.wctx = .poison ∧
        t.cur = 0#32 ∧ t.res = 0#32 ∧ (∀ h, t.hostByte h = s.hostByte h) ∧
        t.env.ports = s.env.ports ++ new ∧
        ectlCalls new = [(a, .loadContext), (a, .init), (a, .saveContext)] ∧ hmemCount new = 0 ∧ cbCount new = 0 ∧
        (s.count + 1#32 ≠ 0#32 →
          (nextEngine s (routineOf v .init) .init Ctx.zero).1.acts.all EngineAct.isLegal = true →
          t.viol = s.viol ∧ ∀ k d w r, PortEvent.ebus k d w r ∈ new → r = 0#8)

/-- R101: DESTROY; from reset it changes nothing; after it every command but CREATE and DESTROY raises NOINIT (R271). The
clause `t.res = 0` is the model's reading (DEDUCED, log entry 26): the pseudocode of R101, R17 and R84 give it, while
R271 and D20 say that DESTROY does not clear RES. -/
def Obligations.DestroyEffect : Prop :=
  (∀ s : State, s.active ≠ none → exec .destroy s = .next (s.violate .destroyActive)) ∧
    (∀ s : State, s.active = none →
      ∃ t, exec .destroy s = .next t ∧ (∀ a, t.slot a = none) ∧ t.count = 0#32 ∧ t.active = none ∧ t.cur = s.cur ∧
        t.wctx = s.wctx ∧ t.viol = s.viol ∧ t.res = 0#32 ∧ t.env = s.env ∧
        ∀ i : Instr, i.wellFormed = true → (∀ b v, i ≠ .create b v) → i ≠ .destroy →
          exec i t = .next (t.violate .noInit)) ∧
    exec .destroy State.reset = .next State.reset

/-- R102: OPEN. -/
def Obligations.OpenEffect : Prop :=
  (∀ (s : State) (b : BitVec 8), s.count = 0#32 → exec (.openSlot b) s = .next (s.violate .noInit)) ∧
    (∀ (s : State) (b : BitVec 8), s.count ≠ 0#32 → (8 ≤ b.toNat ∨ ∃ a : Slot, b.toNat = a.val ∧ s.slot a = none) →
      exec (.openSlot b) s = .next (s.violate .badSlot)) ∧
    ∀ (s : State) (b : BitVec 8) (a : Slot) (i : Instance), s.count ≠ 0#32 → b.toNat = a.val → s.slot a = some i →
      (s.active ≠ none → exec (.openSlot b) s = .next (s.violate .doubleOpen)) ∧
        (s.active = none →
          exec (.openSlot b) s = .next
            { s with active := some a, wctx := .live (loadContext i.rb), cur := i.total, res := 0#32
                     env := { s.env with ports := s.env.ports ++ [.ectl a .shared .loadContext] } })

/-- R103: CLOSE. -/
def Obligations.CloseEffect : Prop :=
  CommonViolations .close ∧
    ∀ (s : State) (a : Slot) (i : Instance) (c : Ctx), s.Ready a i c →
      ∃ t, exec .close s = .next t ∧ t.slot a = some { i with rb := saveContext c, total := s.cur } ∧
        (∀ b, b ≠ a → t.slot b = s.slot b) ∧ t.wctx = .poison ∧ t.active = none ∧ t.res = 0#32 ∧ t.cur = s.cur ∧
        t.count = s.count ∧ t.viol = s.viol ∧
        t.env = { s.env with ports := s.env.ports ++ [.ectl a .shared .saveContext] }

/-- R104: GETACTIVE, -1 reading 0xFFFFFFFF. -/
def Obligations.GetActiveEffect : Prop :=
  (∀ s : State, s.count = 0#32 → exec .getActive s = .next (s.violate .noInit)) ∧
    (∀ s : State, s.count ≠ 0#32 → s.active = none → exec .getActive s = .next { s with res := 0xFFFFFFFF#32 }) ∧
    ∀ (s : State) (a : Slot), s.count ≠ 0#32 → s.active = some a →
      ∃ r, exec .getActive s = .next { s with res := r } ∧ r.toNat = a.val

/-- R106: OPEN followed at once by CLOSE leaves every instance as it was. -/
def Obligations.OpenCloseRoundTrip : Prop :=
  ∀ (s : State) (b : BitVec 8) (a : Slot) (i : Instance), s.count ≠ 0#32 → s.active = none → b.toNat = a.val →
    s.slot a = some i →
    ∃ t, execAll [.openSlot b, .close] s = .next t ∧ t.slots = s.slots ∧ t.active = none ∧ t.wctx = .poison ∧
      t.count = s.count ∧ t.viol = s.viol ∧ ∀ h, t.hostByte h = s.hostByte h

/-! ## Variants and pass-through commands (spec/41_dispatch.md) -/

/-- R120: the rows of VARIANTS: which ids there are, the routine behind each behaviour, and which row is scrambled. -/
def Obligations.VariantBundles : Prop :=
  ∀ b : BitVec 8,
    (b.toNat < 4 → ∃ v, variantOf b = some v) ∧ (4 ≤ b.toNat → variantOf b = none) ∧
      ∀ v, variantOf b = some v →
        v.val = b.toNat ∧ (∀ n, routineOf v (.execute n) = if b = 2#8 then .cmos else .baseline) ∧
          (∀ f, f = EngineCall.reset ∨ f = EngineCall.init →
            routineOf v f = if b = 1#8 then .sub else if b = 2#8 then .cmos else .baseline) ∧
          (∀ line level, routineOf v (.setInterruptLine line level) = if b = 2#8 then .cmos else .baseline) ∧
          (isScrambled v = true ↔ b = 3#8)

/-- R131, R132: GETPC and GETPPC write nothing but RES. -/
def Obligations.ProgramCounterReads : Prop :=
  CommonViolations .getPc ∧ CommonViolations .getPpc ∧
    ∀ (s : State) (a : Slot) (i : Instance) (c : Ctx), s.Ready a i c →
      exec .getPc s = .next
          { s with res := Config.programCounter c
                   env := { s.env with ports := s.env.ports ++ [.ectl a .shared .getProgramCounter] } } ∧
        exec .getPpc s = .next
          { s with res := Config.previousProgramCounter c
                   env := { s.env with ports := s.env.ports ++ [.ectl a .shared .getPreviousProgramCounter] } }

/-- R133: CPURESET invokes the reset behaviour of the active instance's bundle and then sets RES. With nothing nested it
touches no state of the block but WCTX and RES. The last clause: host memory and the ports, for a behaviour without bus
accesses. -/
def Obligations.CpuResetEffect : Prop :=
  CommonViolations .cpuReset ∧
    ∀ (s : State) (a : Slot) (i : Instance) (c : Ctx), s.Ready a i c →
      exec .cpuReset s = andThen (invokeAll s.nest [.reset] s) (fun t => .next { t with res := 0#32 }) ∧
      (s.quiet = true → ∃ t new, exec .cpuReset s = .next t ∧ s.SameButContext t ∧ t.cur = s.cur ∧ t.res = 0#32 ∧
        t.wctx = .live (contextAfter (nextEngine s (routineOf i.variant .reset) .reset c).1.acts c) ∧
        t.env.ports = s.env.ports ++ new ∧ ectlCalls new = [(a, .reset)] ∧
        (noAccess (nextEngine s (routineOf i.variant .reset) .reset c).1.acts = true →
          t.env.mem = s.env.mem ∧ new = [.ectl a (routineOf i.variant .reset) .reset]))

/-! ## The page map (spec/20_memory.md, spec/42_pagemap.md) -/

/-- R44: translation, as a function of one table, the mask and the address; the host address is exact where R43's duty
is kept. -/
def Obligations.TranslationRule : Prop :=
  ∀ (t : PageTable) (mask addr : Addr),
    (translateAddr t mask addr).1 = addr &&& mask ∧
      (t.entry ((addr &&& mask).extractLsb' 8 8) = none → (translateAddr t mask addr).2 = none) ∧
      ∀ base, t.entry ((addr &&& mask).extractLsb' 8 8) = some base →
        ∃ h, (translateAddr t mask addr).2 = some h ∧
          (base.toNat + (addr &&& mask).toNat % 256 < 2 ^ 64 → h.toNat = base.toNat + (addr &&& mask).toNat % 256)

/-- R140: MAPRANGE. -/
def Obligations.MapRangeEffect : Prop :=
  (∀ buffer start stop kinds, CommonViolations (.mapRange buffer start stop kinds)) ∧
    ∀ (s : State) (a : Slot) (i : Instance) (buffer : Option HostAddr) (start stop : Addr) (kinds : BitVec 3),
      s.Opened a i →
      ∃ t j, exec (.mapRange buffer start stop kinds) s = .next t ∧ t.slot a = some j ∧
        TableMapped (kinds.getLsbD 0) buffer start stop i.rd j.rd ∧
        TableMapped (kinds.getLsbD 1) buffer start stop i.wr j.wr ∧
        TableMapped (kinds.getLsbD 2) buffer start stop i.fe j.fe ∧
        j = { i with rd := j.rd, wr := j.wr, fe := j.fe } ∧ (∀ b, b ≠ a → t.slot b = s.slot b) ∧
        t = { s with slots := t.slots, res := 0#32 }

/-- R141, R236: SETMASK. -/
def Obligations.SetMaskEffect : Prop :=
  (∀ mask, CommonViolations (.setMask mask)) ∧
    ∀ (s : State) (a : Slot) (i : Instance) (mask : Addr), s.Opened a i →
      (mask.toNat % 256 ≠ 0xFF → exec (.setMask mask) s = .next (s.violate .badMask)) ∧
        (mask.toNat % 256 = 0xFF →
          ∃ t, exec (.setMask mask) s = .next t ∧ t.slot a = some { i with mask := mask } ∧
            (∀ b, b ≠ a → t.slot b = s.slot b) ∧ t = { s with slots := t.slots, res := 0#32 })

/-- R142: SETCB, its illegal selectors included (R76, R82). -/
def Obligations.SetCbEffect : Prop :=
  (∀ (sel : BitVec 3) handler, sel.toNat < 6 → CommonViolations (.setCb sel handler)) ∧
    (∀ (s : State) (sel : BitVec 3) handler, 6 ≤ sel.toNat →
      exec (.setCb sel handler) s = .next (s.violate .badCommand)) ∧
    ∀ (s : State) (a : Slot) (i : Instance) (sel : BitVec 3) (handler : Option HandlerId), s.Opened a i →
      sel.toNat < 6 →
      ∃ t j, exec (.setCb sel handler) s = .next t ∧ t.slot a = some j ∧
        (∀ k : CbIndex, j.cb[k] = if k.val = sel.toNat then handler else i.cb[k]) ∧ j = { i with cb := j.cb } ∧
        (∀ b, b ≠ a → t.slot b = s.slot b) ∧ t = { s with slots := t.slots, res := 0#32 }

/-- R143: SETREMAP. -/
def Obligations.SetRemapEffect : Prop :=
  (∀ index value, CommonViolations (.setRemap index value)) ∧
    ∀ (s : State) (a : Slot) (i : Instance) (index value : Byte), s.Opened a i →
      ∃ t j, exec (.setRemap index value) s = .next t ∧ t.slot a = some j ∧
        (∀ x, j.remap.entry x = if x = index then value else i.remap.entry x) ∧ j = { i with remap := j.remap } ∧
        (∀ b, b ≠ a → t.slot b = s.slot b) ∧ t = { s with slots := t.slots, res := 0#32 }

/-- R144, R46: READBYTE on its three paths. -/
def Obligations.ReadByteEffect : Prop :=
  (∀ addr, CommonViolations (.readByte addr)) ∧
    ∀ (s : State) (a : Slot) (i : Instance) (addr : Addr), s.Opened a i →
      (∀ h, (translateAddr i.rd i.mask addr).2 = some h →
          exec (.readByte addr) s = .next
            { s with res := (s.hostByte h).zeroExtend 32
                     env := { s.env with ports := s.env.ports ++ [.hread h (s.hostByte h)] } }) ∧
        ((translateAddr i.rd i.mask addr).2 = none → i.cb[cbByteRead] = none →
          exec (.readByte addr) s = .next { s with res := 0#32 }) ∧
        ∀ id, (translateAddr i.rd i.mask addr).2 = none → i.cb[cbByteRead] = some id →
          exec (.readByte addr) s =
            afterHandler s id cbByteRead (addr &&& i.mask) none fun v t => .next { t with res := v.zeroExtend 32 }

/-- R145, R46: WRITEBYTE on its three paths; a mapped write changes the byte it translates to and no other. -/
def Obligations.WriteByteEffect : Prop :=
  (∀ addr data, CommonViolations (.writeByte addr data)) ∧
    ∀ (s : State) (a : Slot) (i : Instance) (addr : Addr) (data : Byte), s.Opened a i →
      (∀ h, (translateAddr i.wr i.mask addr).2 = some h →
          ∃ t, exec (.writeByte addr data) s = .next t ∧ (s.MemWf → t.hostByte h = data) ∧
            (∀ g, g ≠ h → t.hostByte g = s.hostByte g) ∧
            t = { s with res := 0#32
                         env := { s.env with mem := t.env.mem, ports := s.env.ports ++ [.hwrite h data] } }) ∧
        ((translateAddr i.wr i.mask addr).2 = none → i.cb[cbByteWrite] = none →
          exec (.writeByte addr data) s = .next { s with res := 0#32 }) ∧
        ∀ id, (translateAddr i.wr i.mask addr).2 = none → i.cb[cbByteWrite] = some id →
          exec (.writeByte addr data) s =
            afterHandler s id cbByteWrite (addr &&& i.mask) (some data) fun _ t => .next { t with res := 0#32 }

/-- R146: READOP; the byte of whichever path through REMAP, which is read after the byte is obtained. -/
def Obligations.ReadOpEffect : Prop :=
  (∀ addr, CommonViolations (.readOp addr)) ∧
    ∀ (s : State) (a : Slot) (i : Instance) (addr : Addr), s.Opened a i →
      (∀ h, (translateAddr i.fe i.mask addr).2 = some h →
          exec (.readOp addr) s = .next
            { s with res := (i.remap.entry (s.hostByte h)).zeroExtend 32
                     env := { s.env with ports := s.env.ports ++ [.hread h (s.hostByte h)] } }) ∧
        ((translateAddr i.fe i.mask addr).2 = none → i.cb[cbOpRead] = none →
          exec (.readOp addr) s = .next { s with res := (i.remap.entry 0#8).zeroExtend 32 }) ∧
        ∀ id, (translateAddr i.fe i.mask addr).2 = none → i.cb[cbOpRead] = some id →
          exec (.readOp addr) s =
            afterHandler s id cbOpRead (addr &&& i.mask) none fun v t =>
              withActive t fun _ j => .next { t with res := (j.remap.entry v).zeroExtend 32 }

/-- R147: READARG, through FE and never remapped. -/
def Obligations.ReadArgEffect : Prop :=
  (∀ addr, CommonViolations (.readArg addr)) ∧
    ∀ (s : State) (a : Slot) (i : Instance) (addr : Addr), s.Opened a i →
      (∀ h, (translateAddr i.fe i.mask addr).2 = some h →
          exec (.readArg addr) s = .next
            { s with res := (s.hostByte h).zeroExtend 32
                     env := { s.env with ports := s.env.ports ++ [.hread h (s.hostByte h)] } }) ∧
        ((translateAddr i.fe i.mask addr).2 = none → i.cb[cbArgRead] = none →
          exec (.readArg addr) s = .next { s with res := 0#32 }) ∧
        ∀ id, (translateAddr i.fe i.mask addr).2 = none → i.cb[cbArgRead] = some id →
          exec (.readArg addr) s =
            afterHandler s id cbArgRead (addr &&& i.mask) none fun v t => .next { t with res := v.zeroExtend 32 }

/-- R148, R42: READPORT; the handler is given the address as it stands. -/
def Obligations.ReadPortEffect : Prop :=
  (∀ addr, CommonViolations (.readPort addr)) ∧
    ∀ (s : State) (a : Slot) (i : Instance) (addr : Addr), s.Opened a i →
      (i.cb[cbPortRead] = none → exec (.readPort addr) s = .next { s with res := 0#32 }) ∧
        ∀ id, i.cb[cbPortRead] = some id →
          exec (.readPort addr) s =
            afterHandler s id cbPortRead addr none fun v t => .next { t with res := v.zeroExtend 32 }

/-- R149, R42: WRITEPORT. -/
def Obligations.WritePortEffect : Prop :=
  (∀ addr data, CommonViolations (.writePort addr data)) ∧
    ∀ (s : State) (a : Slot) (i : Instance) (addr : Addr) (data : Byte), s.Opened a i →
      (i.cb[cbPortWrite] = none → exec (.writePort addr data) s = .next { s with res := 0#32 }) ∧
        ∀ id, i.cb[cbPortWrite] = some id →
          exec (.writePort addr data) s =
            afterHandler s id cbPortWrite addr (some data) fun _ t => .next { t with res := 0#32 }

/-- R150: WRITEROM stores the byte through each of the three views that is mapped, in the order RD, WR, FE, and through
no other address; then the write handler is invoked whether or not the WR page is mapped. -/
def Obligations.WriteRomEffect : Prop :=
  (∀ addr data, CommonViolations (.writeRom addr data)) ∧
    ∀ (s : State) (a : Slot) (i : Instance) (addr : Addr) (data : Byte), s.Opened a i →
      ∃ u, (s.MemWf → ∀ g, u.hostByte g =
            if some g = (translateAddr i.rd i.mask addr).2 ∨ some g = (translateAddr i.wr i.mask addr).2 ∨
                some g = (translateAddr i.fe i.mask addr).2 then data
            else s.hostByte g) ∧
        u = { s with
          env := { s.env with
            mem := u.env.mem
            ports := s.env.ports ++
              ((translateAddr i.rd i.mask addr).2.toList ++ (translateAddr i.wr i.mask addr).2.toList ++
                (translateAddr i.fe i.mask addr).2.toList).map fun h => .hwrite h data } } ∧
        (i.cb[cbByteWrite] = none → exec (.writeRom addr data) s = .next { u with res := 0#32 }) ∧
        ∀ id, i.cb[cbByteWrite] = some id →
          exec (.writeRom addr data) s =
            afterHandler u id cbByteWrite (addr &&& i.mask) (some data) fun _ t => .next { t with res := 0#32 }

/-- R151, R239: the invocation of a handler. Taking its next script touches no state of the block and no host memory; its
acts run in order, each nested command as at top level; with ACTIVE unchanged at its answer the command goes on with the
handler's byte, else it ends in ACTIVE_CHANGED. The last clause is the case of a handler that only changes host
memory. -/
def Obligations.HandlerInvocation : Prop :=
  ∀ (s : State) (id : HandlerId) (sel : CbIndex) (a : Addr) (d : Option Byte) (k : Byte → State → Out),
    (s.SameBlock (nextHandler s id sel a).2 ∧ (nextHandler s id sel a).2.env.mem = s.env.mem) ∧
      (∀ (cw : CommandWord) (rest : List HandlerAct) (t : State), t.scripts < s.scripts →
        handlerActs s.nest (.command cw :: rest) t = andThen (runWord cw t) (handlerActs s.nest rest)) ∧
      (∀ t, handlerActs s.nest (nextHandler s id sel a).1.acts ((nextHandler s id sel a).2.log (.cb id sel a d)) =
          .next t →
        (t.active = s.active → afterHandler s id sel a d k = k (nextHandler s id sel a).1.answer t) ∧
          (t.active ≠ s.active → afterHandler s id sel a d k = .next (t.violate .activeChanged))) ∧
      ((nextHandler s id sel a).1.acts.all HandlerAct.isWrite = true →
        afterHandler s id sel a d k =
          k (nextHandler s id sel a).1.answer
            (((nextHandler s id sel a).2.log (.cb id sel a d)).pokeAll (nextHandler s id sel a).1.acts))

/-- R45: a mapped access makes exactly one HMEM transfer and no CB transfer; an unmapped access makes no HMEM transfer and
at most one CB transfer, made exactly when its callback slot is not absent (for handlers that issue no nested
command). -/
def Obligations.PagePrecedence : Prop :=
  ∀ (s : State) (a : Slot) (i : Instance) (addr : Addr) (data : Byte), s.Opened a i →
    ∀ r ∈ ([(.readByte addr, i.rd, cbByteRead), (.writeByte addr data, i.wr, cbByteWrite), (.readOp addr, i.fe, cbOpRead),
        (.readArg addr, i.fe, cbArgRead)] : List (Instr × PageTable × CbIndex)),
      ((translateAddr r.2.1 i.mask addr).2 ≠ none →
          ∃ t new, exec r.1 s = .next t ∧ t.env.ports = s.env.ports ++ new ∧ hmemCount new = 1 ∧ cbCount new = 0) ∧
        ((translateAddr r.2.1 i.mask addr).2 = none → s.quiet = true →
          ∃ t new, exec r.1 s = .next t ∧ t.env.ports = s.env.ports ++ new ∧ hmemCount new = 0 ∧
            cbCount new = if i.cb[r.2.2] = none then 0 else 1)

/-- R55: a store through WR is seen by a later fetch of the same address if and only if FE and WR of its page lead to the
same host byte. -/
def Obligations.StoreThenFetch : Prop :=
  ∀ (s : State) (a : Slot) (i : Instance) (addr : Addr) (data : Byte) (hw hf : HostAddr), s.Opened a i → s.MemWf →
    (translateAddr i.wr i.mask addr).2 = some hw → (translateAddr i.fe i.mask addr).2 = some hf →
    (∃ t, execAll [.writeByte addr data, .readArg addr] s = .next t ∧
        t.res = (if hw = hf then data else s.hostByte hf).zeroExtend 32) ∧
      ∃ t, execAll [.writeByte addr data, .readOp addr] s = .next t ∧
        t.res = (i.remap.entry (if hw = hf then data else s.hostByte hf)).zeroExtend 32

/-- R55, R279: MAPRANGE, SETMASK, SETREMAP and SETCB take effect for the very next access. -/
def Obligations.ConfigurationTakesEffectNext : Prop :=
  ∀ (s : State) (a : Slot) (i : Instance) (addr : Addr), s.Opened a i →
    (∀ (base : HostAddr) (start stop : Addr) (kinds : BitVec 3), kinds.getLsbD 0 = true →
        start.toNat / 256 ≤ (addr &&& i.mask).toNat / 256 → (addr &&& i.mask).toNat / 256 ≤ stop.toNat / 256 →
        base.toNat + ((addr &&& i.mask).toNat - start.toNat / 256 * 256) < 2 ^ 64 →
        ∃ t h, execAll [.mapRange (some base) start stop kinds, .readByte addr] s = .next t ∧
          h.toNat = base.toNat + ((addr &&& i.mask).toNat - start.toNat / 256 * 256) ∧
          t.res = (s.hostByte h).zeroExtend 32) ∧
      (∀ (mask : Addr) (h : HostAddr), mask.toNat % 256 = 0xFF → (translateAddr i.rd mask addr).2 = some h →
        ∃ t, execAll [.setMask mask, .readByte addr] s = .next t ∧ t.res = (s.hostByte h).zeroExtend 32) ∧
      (∀ (h : HostAddr) (value : Byte), (translateAddr i.fe i.mask addr).2 = some h →
        ∃ t, execAll [.setRemap (s.hostByte h) value, .readOp addr] s = .next t ∧ t.res = value.zeroExtend 32) ∧
      ∀ id : HandlerId, s.quiet = true →
        ∃ t, execAll [.setCb 0#3 (some id), .readPort addr] s = .next t ∧
          t.env.ports = s.env.ports ++ [.cb id cbPortRead addr none]

/-- R85: an engine bus access of kind k is the command with opcode 0x18 + k, with a = addr and y = wdata, at whatever
depth it is served, and rdata is RES[7:0]. -/
def Obligations.BusAccessIsCommand : Prop :=
  ∀ (s : State) (d : Nat) (kind : BitVec 3) (addr : Addr) (wdata : Byte), kind.toNat < 6 → s.scripts ≤ d →
    ∃ i, decodeFields
          { op := 0x18#8 + kind.zeroExtend 8, y := if kind = 1#3 ∨ kind = 5#3 then wdata else 0#8, a := addr } = .ok i ∧
      busCommand (serveNested d) kind addr wdata s = exec i s ∧
      busAccess (serveNested d) kind addr wdata s =
        andThen (exec i s) fun t => .next (t.log (.ebus kind addr wdata (t.res.extractLsb' 0 8)))

/-! ## Interrupt lines (spec/43_interrupts.md) -/

/-- R180 to R185: SETIRQ makes exactly the engine calls of its status, in order, and then sets RES. With nothing nested it
changes no state of the block but WCTX and RES. The context it leaves is what the behaviours wrote, one after another, where a script is queued for each;
the last clause: host memory and the ports, for behaviours without bus accesses. -/
def Obligations.SetIrqEffect : Prop :=
  (∀ line status, CommonViolations (.setIrq line status)) ∧
    ∀ (s : State) (a : Slot) (i : Instance) (c : Ctx) (line : BitVec 8) (status : IrqStatus), s.Ready a i c →
      exec (.setIrq line status) s =
          andThen (invokeAll s.nest (irqCalls line status) s) (fun t => .next { t with res := 0#32 }) ∧
      (s.quiet = true → ∃ t new e, exec (.setIrq line status) s = .next t ∧ s.SameButContext t ∧ t.cur = s.cur ∧
        t.res = 0#32 ∧ t.wctx = .live e ∧
        ((irqCalls line status).length ≤ s.env.engineIn.length →
          e = (s.env.engineIn.take (irqCalls line status).length).foldl (fun x b => contextAfter b.acts x) c) ∧
        t.env.ports = s.env.ports ++ new ∧ ectlCalls new = (irqCalls line status).map (fun f => (a, f)) ∧
        (s.env.engineIn.all (fun b => noAccess b.acts) = true →
          t.env.mem = s.env.mem ∧ new = (irqCalls line status).map fun f => .ectl a (routineOf i.variant f) f))

/-- R187: SETIRQX on another instance leaves the active one active, its working context and its cycle count as they were,
its saved copies refreshed, and of the target only RB changed: it is saved from what the behaviours wrote, one after
another, on the target's loaded context, where a script is queued for each. The last clause: host memory and the ports,
for behaviours without bus accesses. -/
def Obligations.SetIrqxPreserves : Prop :=
  ∀ (s : State) (a b : Slot) (i j : Instance) (c : Ctx) (tb line : BitVec 8) (status : IrqStatus), s.Ready a i c →
    s.quiet = true → a ≠ b → tb.toNat = b.val → s.slot b = some j →
    ∃ t new rb, exec (.setIrqx tb line status) s = .next t ∧ t.active = some a ∧ t.wctx = .live c ∧ t.cur = s.cur ∧
      t.slot a = some { i with rb := saveContext c, total := s.cur } ∧ t.slot b = some { j with rb := rb } ∧
      ((irqCalls line status).length ≤ s.env.engineIn.length →
        rb = saveContext
          ((s.env.engineIn.take (irqCalls line status).length).foldl (fun x e => contextAfter e.acts x)
            (loadContext j.rb))) ∧
      (∀ x, x ≠ a → x ≠ b → t.slot x = s.slot x) ∧ t.count = s.count ∧ t.viol = s.viol ∧ t.res = 0#32 ∧
      t.env.ports = s.env.ports ++ new ∧
      ectlCalls new =
        [(a, .saveContext), (b, .loadContext)] ++ (irqCalls line status).map (fun f => (b, f)) ++
          [(b, .saveContext), (a, .loadContext)] ∧
      (s.env.engineIn.all (fun e => noAccess e.acts) = true →
        t.env.mem = s.env.mem ∧
          new = [.ectl a .shared .saveContext, .ectl b .shared .loadContext] ++
            (irqCalls line status).map (fun f => .ectl b (routineOf j.variant f) f) ++
            [.ectl b .shared .saveContext, .ectl a .shared .loadContext])

/-- R186: the checks of SETIRQX, which come before anything is closed; a target that is active is signalled as by SETIRQ;
with none active the target is opened, signalled and closed, its RB saved from what the behaviours wrote on its loaded
context. -/
def Obligations.SetIrqxOtherCases : Prop :=
  (∀ (s : State) (tb line : BitVec 8) (status : IrqStatus), s.count = 0#32 →
      exec (.setIrqx tb line status) s = .next (s.violate .noInit)) ∧
    (∀ (s : State) (tb line : BitVec 8) (status : IrqStatus), s.count ≠ 0#32 →
      (8 ≤ tb.toNat ∨ ∃ b : Slot, tb.toNat = b.val ∧ s.slot b = none) →
      exec (.setIrqx tb line status) s = .next (s.violate .badSlot)) ∧
    (∀ (s : State) (a : Slot) (i : Instance) (tb line : BitVec 8) (status : IrqStatus), s.Opened a i →
      tb.toNat = a.val → exec (.setIrqx tb line status) s = exec (.setIrq line status) s) ∧
    ∀ (s : State) (b : Slot) (j : Instance) (tb line : BitVec 8) (status : IrqStatus), s.count ≠ 0#32 →
      s.active = none → tb.toNat = b.val → s.slot b = some j → s.quiet = true →
      ∃ t new rb, exec (.setIrqx tb line status) s = .next t ∧ t.active = none ∧ t.wctx = .poison ∧
        t.slot b = some { j with rb := rb } ∧
        ((irqCalls line status).length ≤ s.env.engineIn.length →
          rb = saveContext
            ((s.env.engineIn.take (irqCalls line status).length).foldl (fun x e => contextAfter e.acts x)
              (loadContext j.rb))) ∧
        (∀ x, x ≠ b → t.slot x = s.slot x) ∧ t.count = s.count ∧ t.cur = j.total ∧ t.viol = s.viol ∧ t.res = 0#32 ∧
        t.env.ports = s.env.ports ++ new ∧
        ectlCalls new =
          (b, .loadContext) :: ((irqCalls line status).map (fun f => (b, f)) ++ [(b, .saveContext)]) ∧
        (s.env.engineIn.all (fun e => noAccess e.acts) = true →
          t.env.mem = s.env.mem ∧
            new = .ectl b .shared .loadContext ::
              ((irqCalls line status).map (fun f => .ectl b (routineOf j.variant f) f) ++
                [.ectl b .shared .saveContext]))

/-! ## Cycle counters (spec/44_cycles.md) -/

/-- R200: NEWFRAME zeroes TOTAL of every live slot and CUR, nothing else; afterwards every saved counter and the active
counter read zero. -/
def Obligations.NewFrameEffect : Prop :=
  (∀ s : State, s.count = 0#32 → exec .newFrame s = .next (s.violate .noInit)) ∧
    ∀ s : State, s.count ≠ 0#32 →
      ∃ t, exec .newFrame s = .next t ∧
        (∀ a, t.slot a = (s.slot a).map fun i => { i with total := 0#32 }) ∧
        t = { s with slots := t.slots, cur := 0#32, res := 0#32 } ∧ exec .getCur t = .next { t with res := 0#32 } ∧
        ∀ (b : BitVec 8) (a : Slot), b.toNat = a.val → s.slot a ≠ none →
          exec (.getSaved b) t = .next { t with res := 0#32 }

/-- R201: RUN. The first clause is the order: CUR is advanced once, after `execute` returns. The second is the whole effect
when nothing is nested; host memory and the ports for a behaviour without bus accesses. -/
def Obligations.RunEffect : Prop :=
  (∀ n, CommonViolations (.run n)) ∧
    ∀ (s : State) (a : Slot) (i : Instance) (c : Ctx) (n : Cycles) (e : EngineScript) (u : State), s.Ready a i c →
      nextEngine s (routineOf i.variant (.execute n)) (.execute n) c = (e, u) →
      exec (.run n) s =
          andThen (engineActs s.nest e.acts (u.log (.ectl a (routineOf i.variant (.execute n)) (.execute n)))) (fun t =>
            .next { t with cur := t.cur + e.consumed, res := e.consumed }) ∧
        (s.quiet = true →
          ∃ t new, exec (.run n) s = .next t ∧ s.SameButContext t ∧ t.cur = s.cur + e.consumed ∧ t.res = e.consumed ∧
            t.wctx = .live (contextAfter e.acts c) ∧ t.env.ports = s.env.ports ++ new ∧
            ectlCalls new = [(a, .execute n)] ∧
            (noAccess e.acts = true →
              t.env.mem = s.env.mem ∧ new = [.ectl a (routineOf i.variant (.execute n)) (.execute n)]))

/-- R202, R206: IDLE adds its operand to CUR modulo 2^32 and does nothing else. -/
def Obligations.IdleEffect : Prop :=
  (∀ n, CommonViolations (.idle n)) ∧
    ∀ (s : State) (n : Cycles), s.count ≠ 0#32 → s.active ≠ none →
      ∃ x, exec (.idle n) s = .next { s with cur := x, res := 0#32 } ∧ x.toNat = (s.cur.toNat + n.toNat) % 2 ^ 32

/-- R203, R204: GETCUR and GETSAVED write nothing but RES. -/
def Obligations.CounterReads : Prop :=
  (∀ s : State, s.count = 0#32 → exec .getCur s = .next (s.violate .noInit)) ∧
    (∀ s : State, s.count ≠ 0#32 → exec .getCur s = .next { s with res := s.cur }) ∧
    (∀ (s : State) (b : BitVec 8), s.count = 0#32 → exec (.getSaved b) s = .next (s.violate .noInit)) ∧
    (∀ (s : State) (b : BitVec 8), s.count ≠ 0#32 → (8 ≤ b.toNat ∨ ∃ a : Slot, b.toNat = a.val ∧ s.slot a = none) →
      exec (.getSaved b) s = .next (s.violate .badSlot)) ∧
    ∀ (s : State) (b : BitVec 8) (a : Slot) (i : Instance), s.count ≠ 0#32 → b.toNat = a.val → s.slot a = some i →
      exec (.getSaved b) s = .next { s with res := i.total }

/-- R205: A accrues c1 cycles, is closed, B runs and is closed, A is reopened and accrues c2 more: A's total has grown by
c1 + c2, whatever B did. -/
def Obligations.CycleContinuity : Prop :=
  ∀ (s : State) (a b : Slot) (i j : Instance) (c : Ctx) (ta tb : BitVec 8) (n1 n2 n3 n4 : Cycles), s.Ready a i c →
    s.quiet = true → a ≠ b → ta.toNat = a.val → tb.toNat = b.val → s.slot b = some j →
    ∃ t u v w, exec (.run n1) s = .next t ∧
      execAll [.close, .openSlot tb, .run n2, .idle n3, .close, .openSlot ta] t = .next u ∧
      exec (.run n4) u = .next v ∧ execAll [.close, .getSaved ta] v = .next w ∧ w.res = s.cur + t.res + v.res

/-! ## Snapshots (spec/45_snapshot.md) -/

/-- R215: SCAN outside driver scope is a no-op but for RES; in the read direction it presents the record of every live
slot, in ascending order, and leaves the block's state unchanged. -/
def Obligations.ScanReadOut : Prop :=
  (∀ (s : State) (driver write : Bool), s.count = 0#32 → exec (.scan driver write) s = .next (s.violate .noInit)) ∧
    (∀ (s : State) (write : Bool), s.count ≠ 0#32 → exec (.scan false write) s = .next { s with res := 0#32 }) ∧
    ∀ s : State, s.count ≠ 0#32 → s.quiet = true →
      ∃ t, exec (.scan true false) s = .next t ∧ s.SameBlock t ∧ t.res = 0#32 ∧ t.env.mem = s.env.mem ∧
        t.env.ports = s.env.ports ++ scanRecords s false

/-- R215, R217: SCAN in the write direction replaces RB, TOTAL and SEGMENT of every live instance by the driver's values,
and nothing else; the k-th live slot takes the k-th record's values where a script is queued for it. -/
def Obligations.ScanWriteIn : Prop :=
  ∀ s : State, s.count ≠ 0#32 → s.quiet = true →
    ∃ t, exec (.scan true true) s = .next t ∧ t = { s with slots := t.slots, res := 0#32, env := t.env } ∧
      t.env.mem = s.env.mem ∧ t.env.ports = s.env.ports ++ scanRecords s true ∧
      ∀ a, (s.slot a = none → t.slot a = none) ∧
        ∀ i, s.slot a = some i →
          ∃ rb total segment, t.slot a = some { i with rb := rb, total := total, segment := segment } ∧
            ∀ d, s.env.snapIn[(s.liveBelow a).length]? = some d →
              rb = d.rb ∧ total = d.total ∧ segment = d.segment

/-- R9, R215: a SCAN in driver scope whose driver issues nested commands. The slots are taken in ascending order, and a slot
is live when it is reached (log entry 25); its record is presented, the driver's commands then run in order, each as at
top level (log entry 19), and after them, in the write direction, its values are written. Taking the driver's script
touches no state of the block and no host memory. -/
def Obligations.ScanWithNestedCommands : Prop :=
  ∀ (s : State) (write : Bool),
    (s.count ≠ 0#32 → exec (.scan true write) s = scanSlots s.nest write (List.finRange 8) s) ∧
      ∀ t : State,
        scanSlots s.nest write [] t = .next { t with res := 0#32 } ∧
          (∀ (cw : CommandWord) (rest : List CommandWord), t.scripts < s.scripts →
            snapCommands s.nest (cw :: rest) t = andThen (runWord cw t) (snapCommands s.nest rest)) ∧
          ∀ (a : Slot) (rest : List Slot),
            (t.slot a = none → scanSlots s.nest write (a :: rest) t = scanSlots s.nest write rest t) ∧
              ∀ (i : Instance) (d : SnapScript) (u : State), t.slot a = some i → nextSnap t a = (d, u) →
                t.SameBlock u ∧ u.env.mem = t.env.mem ∧
                  ∀ v, snapCommands s.nest d.commands
                        (u.log (.snap (Config.snapNaming.name a) i.rb i.total i.segment write)) = .next v →
                    (write = false → scanSlots s.nest write (a :: rest) t = scanSlots s.nest write rest v) ∧
                      (write = true → ∀ j, v.slot a = some j →
                        ∃ w, scanSlots s.nest write (a :: rest) t = scanSlots s.nest write rest w ∧
                          w.slot a = some { j with rb := d.rb, total := d.total, segment := d.segment } ∧
                          (∀ b, b ≠ a → w.slot b = v.slot b) ∧ w = { v with slots := w.slots })

/-- R216: the descriptor names of two slots differ. -/
def Obligations.SnapshotNamesUnique : Prop :=
  ∀ a b : Slot, Config.snapNaming.name a = Config.snapNaming.name b → a = b

/-! ## Rules of the whole machine -/

/-- R11 to R25: with nothing nested, each piece of state is written by no command but those its rule names. CREATE and
DESTROY, which replace whole instances, are left out; VIOL and RES have statements of their own. -/
def Obligations.OnlyItsCommandWritesEachField : Prop :=
  ∀ (i : Instr) (s t : State), exec i s = .next t → s.quiet = true → (∀ b v, i ≠ .create b v) → i ≠ .destroy →
    t.count = s.count ∧
      (∀ a, (t.slot a).map (fun j => (j.variant)) = (s.slot a).map fun j => j.variant) ∧
      ((∀ x y, i ≠ .setRemap x y) → ∀ a, (t.slot a).map (fun j => j.remap) = (s.slot a).map fun j => j.remap) ∧
      ((∀ m, i ≠ .setMask m) → ∀ a, (t.slot a).map (fun j => j.mask) = (s.slot a).map fun j => j.mask) ∧
      ((∀ p x y k, i ≠ .mapRange p x y k) →
        ∀ a, (t.slot a).map (fun j => (j.rd, j.wr, j.fe)) = (s.slot a).map fun j => (j.rd, j.wr, j.fe)) ∧
      ((∀ x h, i ≠ .setCb x h) → ∀ a, (t.slot a).map (fun j => j.cb) = (s.slot a).map fun j => j.cb) ∧
      (i ≠ .scan true true → ∀ a, (t.slot a).map (fun j => j.segment) = (s.slot a).map fun j => j.segment) ∧
      (i ≠ .scan true true → i ≠ .close → i ≠ .newFrame → (∀ b l x, i ≠ .setIrqx b l x) →
        ∀ a, (t.slot a).map (fun j => j.total) = (s.slot a).map fun j => j.total) ∧
      (i ≠ .scan true true → i ≠ .close → (∀ b l x, i ≠ .setIrqx b l x) →
        ∀ a, (t.slot a).map (fun j => j.rb) = (s.slot a).map fun j => j.rb) ∧
      ((∀ b, i ≠ .openSlot b) → i ≠ .close → t.active = s.active) ∧
      ((∀ b, i ≠ .openSlot b) → (∀ n, i ≠ .run n) → (∀ n, i ≠ .idle n) → i ≠ .newFrame →
        (∀ b l x, i ≠ .setIrqx b l x) → t.cur = s.cur) ∧
      ((∀ b, i ≠ .openSlot b) → i ≠ .close → i ≠ .cpuReset → (∀ n, i ≠ .run n) → (∀ l x, i ≠ .setIrq l x) →
        (∀ b l x, i ≠ .setIrqx b l x) → t.wctx = s.wctx)

/-- R251, R273: a command on the active instance, with nothing nested, leaves every other instance as it was. -/
def Obligations.OtherInstancesUntouched : Prop :=
  ∀ (i : Instr) (s t : State) (a : Slot), needsActive i = true → s.active = some a → s.quiet = true →
    exec i s = .next t → ∀ b, b ≠ a → t.slot b = s.slot b

/-- R4, U10: SCRAMBLE permutes the bit positions of a byte, so it is one-to-one and keeps 0; the default of the spec's
examples swaps bits 5 and 6. Which permutation SCRAMBLE is stays open (log entry 9). -/
def Obligations.ScramblePermutes : Prop :=
  (∀ (b : Byte) (k : Fin 8), (scramble b).getLsbD k.val = b.getLsbD (Config.scrambleBits k).val) ∧
    Function.Injective scramble ∧ scramble 0#8 = 0#8 ∧
    ∀ b : Byte, permuteBits Config.scrambleBitsDefault b =
      (b &&& 0x9F#8) ||| ((b >>> 1) &&& 0x20#8) ||| ((b &&& 0x20#8) <<< 1)

end
end

