-- ==== Sys2Proof/Laws/State.lean ====
section
/-! SUPPORT. One lemma per field per update of State, true by rfl, so that no later proof unfolds a record update. -/

namespace Sys2Proof.Machine

/-! count -/

@[simp] theorem State.setCount_count (s : State) (v : Cycles) : (s.setCount v).count = v := rfl
@[simp] theorem State.setCount_active (s : State) (v : Cycles) : (s.setCount v).active = s.active := rfl
@[simp] theorem State.setCount_slots (s : State) (v : Cycles) : (s.setCount v).slots = s.slots := rfl
@[simp] theorem State.setCount_cur (s : State) (v : Cycles) : (s.setCount v).cur = s.cur := rfl
@[simp] theorem State.setCount_wctx (s : State) (v : Cycles) : (s.setCount v).wctx = s.wctx := rfl
@[simp] theorem State.setCount_viol (s : State) (v : Cycles) : (s.setCount v).viol = s.viol := rfl
@[simp] theorem State.setCount_res (s : State) (v : Cycles) : (s.setCount v).res = s.res := rfl
@[simp] theorem State.setCount_env (s : State) (v : Cycles) : (s.setCount v).env = s.env := rfl

/-! active -/

@[simp] theorem State.setActive_count (s : State) (v : Option Slot) : (s.setActive v).count = s.count := rfl
@[simp] theorem State.setActive_active (s : State) (v : Option Slot) : (s.setActive v).active = v := rfl
@[simp] theorem State.setActive_slots (s : State) (v : Option Slot) : (s.setActive v).slots = s.slots := rfl
@[simp] theorem State.setActive_cur (s : State) (v : Option Slot) : (s.setActive v).cur = s.cur := rfl
@[simp] theorem State.setActive_wctx (s : State) (v : Option Slot) : (s.setActive v).wctx = s.wctx := rfl
@[simp] theorem State.setActive_viol (s : State) (v : Option Slot) : (s.setActive v).viol = s.viol := rfl
@[simp] theorem State.setActive_res (s : State) (v : Option Slot) : (s.setActive v).res = s.res := rfl
@[simp] theorem State.setActive_env (s : State) (v : Option Slot) : (s.setActive v).env = s.env := rfl

/-! slots -/

@[simp] theorem State.setSlots_count (s : State) (v : Vector (Option Instance) Config.maxCpu) : (s.setSlots v).count = s.count := rfl
@[simp] theorem State.setSlots_active (s : State) (v : Vector (Option Instance) Config.maxCpu) : (s.setSlots v).active = s.active := rfl
@[simp] theorem State.setSlots_slots (s : State) (v : Vector (Option Instance) Config.maxCpu) : (s.setSlots v).slots = v := rfl
@[simp] theorem State.setSlots_cur (s : State) (v : Vector (Option Instance) Config.maxCpu) : (s.setSlots v).cur = s.cur := rfl
@[simp] theorem State.setSlots_wctx (s : State) (v : Vector (Option Instance) Config.maxCpu) : (s.setSlots v).wctx = s.wctx := rfl
@[simp] theorem State.setSlots_viol (s : State) (v : Vector (Option Instance) Config.maxCpu) : (s.setSlots v).viol = s.viol := rfl
@[simp] theorem State.setSlots_res (s : State) (v : Vector (Option Instance) Config.maxCpu) : (s.setSlots v).res = s.res := rfl
@[simp] theorem State.setSlots_env (s : State) (v : Vector (Option Instance) Config.maxCpu) : (s.setSlots v).env = s.env := rfl

/-! cur -/

@[simp] theorem State.setCur_count (s : State) (v : Cycles) : (s.setCur v).count = s.count := rfl
@[simp] theorem State.setCur_active (s : State) (v : Cycles) : (s.setCur v).active = s.active := rfl
@[simp] theorem State.setCur_slots (s : State) (v : Cycles) : (s.setCur v).slots = s.slots := rfl
@[simp] theorem State.setCur_cur (s : State) (v : Cycles) : (s.setCur v).cur = v := rfl
@[simp] theorem State.setCur_wctx (s : State) (v : Cycles) : (s.setCur v).wctx = s.wctx := rfl
@[simp] theorem State.setCur_viol (s : State) (v : Cycles) : (s.setCur v).viol = s.viol := rfl
@[simp] theorem State.setCur_res (s : State) (v : Cycles) : (s.setCur v).res = s.res := rfl
@[simp] theorem State.setCur_env (s : State) (v : Cycles) : (s.setCur v).env = s.env := rfl

/-! wctx -/

@[simp] theorem State.setWctx_count (s : State) (v : WorkingContext) : (s.setWctx v).count = s.count := rfl
@[simp] theorem State.setWctx_active (s : State) (v : WorkingContext) : (s.setWctx v).active = s.active := rfl
@[simp] theorem State.setWctx_slots (s : State) (v : WorkingContext) : (s.setWctx v).slots = s.slots := rfl
@[simp] theorem State.setWctx_cur (s : State) (v : WorkingContext) : (s.setWctx v).cur = s.cur := rfl
@[simp] theorem State.setWctx_wctx (s : State) (v : WorkingContext) : (s.setWctx v).wctx = v := rfl
@[simp] theorem State.setWctx_viol (s : State) (v : WorkingContext) : (s.setWctx v).viol = s.viol := rfl
@[simp] theorem State.setWctx_res (s : State) (v : WorkingContext) : (s.setWctx v).res = s.res := rfl
@[simp] theorem State.setWctx_env (s : State) (v : WorkingContext) : (s.setWctx v).env = s.env := rfl

/-! viol -/

@[simp] theorem State.setViol_count (s : State) (v : Option Violation) : (s.setViol v).count = s.count := rfl
@[simp] theorem State.setViol_active (s : State) (v : Option Violation) : (s.setViol v).active = s.active := rfl
@[simp] theorem State.setViol_slots (s : State) (v : Option Violation) : (s.setViol v).slots = s.slots := rfl
@[simp] theorem State.setViol_cur (s : State) (v : Option Violation) : (s.setViol v).cur = s.cur := rfl
@[simp] theorem State.setViol_wctx (s : State) (v : Option Violation) : (s.setViol v).wctx = s.wctx := rfl
@[simp] theorem State.setViol_viol (s : State) (v : Option Violation) : (s.setViol v).viol = v := rfl
@[simp] theorem State.setViol_res (s : State) (v : Option Violation) : (s.setViol v).res = s.res := rfl
@[simp] theorem State.setViol_env (s : State) (v : Option Violation) : (s.setViol v).env = s.env := rfl

/-! res -/

@[simp] theorem State.setRes_count (s : State) (v : Result) : (s.setRes v).count = s.count := rfl
@[simp] theorem State.setRes_active (s : State) (v : Result) : (s.setRes v).active = s.active := rfl
@[simp] theorem State.setRes_slots (s : State) (v : Result) : (s.setRes v).slots = s.slots := rfl
@[simp] theorem State.setRes_cur (s : State) (v : Result) : (s.setRes v).cur = s.cur := rfl
@[simp] theorem State.setRes_wctx (s : State) (v : Result) : (s.setRes v).wctx = s.wctx := rfl
@[simp] theorem State.setRes_viol (s : State) (v : Result) : (s.setRes v).viol = s.viol := rfl
@[simp] theorem State.setRes_res (s : State) (v : Result) : (s.setRes v).res = v := rfl
@[simp] theorem State.setRes_env (s : State) (v : Result) : (s.setRes v).env = s.env := rfl

/-! one slot -/

@[simp] theorem State.setSlot_count (s : State) (a : Slot) (v : Option Instance) : (s.setSlot a v).count = s.count := rfl
@[simp] theorem State.setSlot_active (s : State) (a : Slot) (v : Option Instance) : (s.setSlot a v).active = s.active := rfl
@[simp] theorem State.setSlot_slots (s : State) (a : Slot) (v : Option Instance) : (s.setSlot a v).slots = s.slots.set a.val v a.isLt := rfl
@[simp] theorem State.setSlot_cur (s : State) (a : Slot) (v : Option Instance) : (s.setSlot a v).cur = s.cur := rfl
@[simp] theorem State.setSlot_wctx (s : State) (a : Slot) (v : Option Instance) : (s.setSlot a v).wctx = s.wctx := rfl
@[simp] theorem State.setSlot_viol (s : State) (a : Slot) (v : Option Instance) : (s.setSlot a v).viol = s.viol := rfl
@[simp] theorem State.setSlot_res (s : State) (a : Slot) (v : Option Instance) : (s.setSlot a v).res = s.res := rfl
@[simp] theorem State.setSlot_env (s : State) (a : Slot) (v : Option Instance) : (s.setSlot a v).env = s.env := rfl

/-! env.mem -/

@[simp] theorem State.setMem_count (s : State) (v : HostMem) : (s.setMem v).count = s.count := rfl
@[simp] theorem State.setMem_active (s : State) (v : HostMem) : (s.setMem v).active = s.active := rfl
@[simp] theorem State.setMem_slots (s : State) (v : HostMem) : (s.setMem v).slots = s.slots := rfl
@[simp] theorem State.setMem_cur (s : State) (v : HostMem) : (s.setMem v).cur = s.cur := rfl
@[simp] theorem State.setMem_wctx (s : State) (v : HostMem) : (s.setMem v).wctx = s.wctx := rfl
@[simp] theorem State.setMem_viol (s : State) (v : HostMem) : (s.setMem v).viol = s.viol := rfl
@[simp] theorem State.setMem_res (s : State) (v : HostMem) : (s.setMem v).res = s.res := rfl
@[simp] theorem State.setMem_env_mem (s : State) (v : HostMem) : (s.setMem v).env.mem = v := rfl
@[simp] theorem State.setMem_env_hostIn (s : State) (v : HostMem) : (s.setMem v).env.hostIn = s.env.hostIn := rfl
@[simp] theorem State.setMem_env_engineIn (s : State) (v : HostMem) : (s.setMem v).env.engineIn = s.env.engineIn := rfl
@[simp] theorem State.setMem_env_handlerIn (s : State) (v : HostMem) : (s.setMem v).env.handlerIn = s.env.handlerIn := rfl
@[simp] theorem State.setMem_env_snapIn (s : State) (v : HostMem) : (s.setMem v).env.snapIn = s.env.snapIn := rfl
@[simp] theorem State.setMem_env_serial (s : State) (v : HostMem) : (s.setMem v).env.serial = s.env.serial := rfl
@[simp] theorem State.setMem_env_ports (s : State) (v : HostMem) : (s.setMem v).env.ports = s.env.ports := rfl

/-! env.hostIn -/

@[simp] theorem State.setHostIn_count (s : State) (v : List HostAct) : (s.setHostIn v).count = s.count := rfl
@[simp] theorem State.setHostIn_active (s : State) (v : List HostAct) : (s.setHostIn v).active = s.active := rfl
@[simp] theorem State.setHostIn_slots (s : State) (v : List HostAct) : (s.setHostIn v).slots = s.slots := rfl
@[simp] theorem State.setHostIn_cur (s : State) (v : List HostAct) : (s.setHostIn v).cur = s.cur := rfl
@[simp] theorem State.setHostIn_wctx (s : State) (v : List HostAct) : (s.setHostIn v).wctx = s.wctx := rfl
@[simp] theorem State.setHostIn_viol (s : State) (v : List HostAct) : (s.setHostIn v).viol = s.viol := rfl
@[simp] theorem State.setHostIn_res (s : State) (v : List HostAct) : (s.setHostIn v).res = s.res := rfl
@[simp] theorem State.setHostIn_env_mem (s : State) (v : List HostAct) : (s.setHostIn v).env.mem = s.env.mem := rfl
@[simp] theorem State.setHostIn_env_hostIn (s : State) (v : List HostAct) : (s.setHostIn v).env.hostIn = v := rfl
@[simp] theorem State.setHostIn_env_engineIn (s : State) (v : List HostAct) : (s.setHostIn v).env.engineIn = s.env.engineIn := rfl
@[simp] theorem State.setHostIn_env_handlerIn (s : State) (v : List HostAct) : (s.setHostIn v).env.handlerIn = s.env.handlerIn := rfl
@[simp] theorem State.setHostIn_env_snapIn (s : State) (v : List HostAct) : (s.setHostIn v).env.snapIn = s.env.snapIn := rfl
@[simp] theorem State.setHostIn_env_serial (s : State) (v : List HostAct) : (s.setHostIn v).env.serial = s.env.serial := rfl
@[simp] theorem State.setHostIn_env_ports (s : State) (v : List HostAct) : (s.setHostIn v).env.ports = s.env.ports := rfl

/-! env.engineIn -/

@[simp] theorem State.setEngineIn_count (s : State) (v : List EngineScript) : (s.setEngineIn v).count = s.count := rfl
@[simp] theorem State.setEngineIn_active (s : State) (v : List EngineScript) : (s.setEngineIn v).active = s.active := rfl
@[simp] theorem State.setEngineIn_slots (s : State) (v : List EngineScript) : (s.setEngineIn v).slots = s.slots := rfl
@[simp] theorem State.setEngineIn_cur (s : State) (v : List EngineScript) : (s.setEngineIn v).cur = s.cur := rfl
@[simp] theorem State.setEngineIn_wctx (s : State) (v : List EngineScript) : (s.setEngineIn v).wctx = s.wctx := rfl
@[simp] theorem State.setEngineIn_viol (s : State) (v : List EngineScript) : (s.setEngineIn v).viol = s.viol := rfl
@[simp] theorem State.setEngineIn_res (s : State) (v : List EngineScript) : (s.setEngineIn v).res = s.res := rfl
@[simp] theorem State.setEngineIn_env_mem (s : State) (v : List EngineScript) : (s.setEngineIn v).env.mem = s.env.mem := rfl
@[simp] theorem State.setEngineIn_env_hostIn (s : State) (v : List EngineScript) : (s.setEngineIn v).env.hostIn = s.env.hostIn := rfl
@[simp] theorem State.setEngineIn_env_engineIn (s : State) (v : List EngineScript) : (s.setEngineIn v).env.engineIn = v := rfl
@[simp] theorem State.setEngineIn_env_handlerIn (s : State) (v : List EngineScript) : (s.setEngineIn v).env.handlerIn = s.env.handlerIn := rfl
@[simp] theorem State.setEngineIn_env_snapIn (s : State) (v : List EngineScript) : (s.setEngineIn v).env.snapIn = s.env.snapIn := rfl
@[simp] theorem State.setEngineIn_env_serial (s : State) (v : List EngineScript) : (s.setEngineIn v).env.serial = s.env.serial := rfl
@[simp] theorem State.setEngineIn_env_ports (s : State) (v : List EngineScript) : (s.setEngineIn v).env.ports = s.env.ports := rfl

/-! env.handlerIn -/

@[simp] theorem State.setHandlerIn_count (s : State) (v : List HandlerScript) : (s.setHandlerIn v).count = s.count := rfl
@[simp] theorem State.setHandlerIn_active (s : State) (v : List HandlerScript) : (s.setHandlerIn v).active = s.active := rfl
@[simp] theorem State.setHandlerIn_slots (s : State) (v : List HandlerScript) : (s.setHandlerIn v).slots = s.slots := rfl
@[simp] theorem State.setHandlerIn_cur (s : State) (v : List HandlerScript) : (s.setHandlerIn v).cur = s.cur := rfl
@[simp] theorem State.setHandlerIn_wctx (s : State) (v : List HandlerScript) : (s.setHandlerIn v).wctx = s.wctx := rfl
@[simp] theorem State.setHandlerIn_viol (s : State) (v : List HandlerScript) : (s.setHandlerIn v).viol = s.viol := rfl
@[simp] theorem State.setHandlerIn_res (s : State) (v : List HandlerScript) : (s.setHandlerIn v).res = s.res := rfl
@[simp] theorem State.setHandlerIn_env_mem (s : State) (v : List HandlerScript) : (s.setHandlerIn v).env.mem = s.env.mem := rfl
@[simp] theorem State.setHandlerIn_env_hostIn (s : State) (v : List HandlerScript) : (s.setHandlerIn v).env.hostIn = s.env.hostIn := rfl
@[simp] theorem State.setHandlerIn_env_engineIn (s : State) (v : List HandlerScript) : (s.setHandlerIn v).env.engineIn = s.env.engineIn := rfl
@[simp] theorem State.setHandlerIn_env_handlerIn (s : State) (v : List HandlerScript) : (s.setHandlerIn v).env.handlerIn = v := rfl
@[simp] theorem State.setHandlerIn_env_snapIn (s : State) (v : List HandlerScript) : (s.setHandlerIn v).env.snapIn = s.env.snapIn := rfl
@[simp] theorem State.setHandlerIn_env_serial (s : State) (v : List HandlerScript) : (s.setHandlerIn v).env.serial = s.env.serial := rfl
@[simp] theorem State.setHandlerIn_env_ports (s : State) (v : List HandlerScript) : (s.setHandlerIn v).env.ports = s.env.ports := rfl

/-! env.snapIn -/

@[simp] theorem State.setSnapIn_count (s : State) (v : List SnapScript) : (s.setSnapIn v).count = s.count := rfl
@[simp] theorem State.setSnapIn_active (s : State) (v : List SnapScript) : (s.setSnapIn v).active = s.active := rfl
@[simp] theorem State.setSnapIn_slots (s : State) (v : List SnapScript) : (s.setSnapIn v).slots = s.slots := rfl
@[simp] theorem State.setSnapIn_cur (s : State) (v : List SnapScript) : (s.setSnapIn v).cur = s.cur := rfl
@[simp] theorem State.setSnapIn_wctx (s : State) (v : List SnapScript) : (s.setSnapIn v).wctx = s.wctx := rfl
@[simp] theorem State.setSnapIn_viol (s : State) (v : List SnapScript) : (s.setSnapIn v).viol = s.viol := rfl
@[simp] theorem State.setSnapIn_res (s : State) (v : List SnapScript) : (s.setSnapIn v).res = s.res := rfl
@[simp] theorem State.setSnapIn_env_mem (s : State) (v : List SnapScript) : (s.setSnapIn v).env.mem = s.env.mem := rfl
@[simp] theorem State.setSnapIn_env_hostIn (s : State) (v : List SnapScript) : (s.setSnapIn v).env.hostIn = s.env.hostIn := rfl
@[simp] theorem State.setSnapIn_env_engineIn (s : State) (v : List SnapScript) : (s.setSnapIn v).env.engineIn = s.env.engineIn := rfl
@[simp] theorem State.setSnapIn_env_handlerIn (s : State) (v : List SnapScript) : (s.setSnapIn v).env.handlerIn = s.env.handlerIn := rfl
@[simp] theorem State.setSnapIn_env_snapIn (s : State) (v : List SnapScript) : (s.setSnapIn v).env.snapIn = v := rfl
@[simp] theorem State.setSnapIn_env_serial (s : State) (v : List SnapScript) : (s.setSnapIn v).env.serial = s.env.serial := rfl
@[simp] theorem State.setSnapIn_env_ports (s : State) (v : List SnapScript) : (s.setSnapIn v).env.ports = s.env.ports := rfl

/-! env.serial -/

@[simp] theorem State.setSerial_count (s : State) (v : Nat) : (s.setSerial v).count = s.count := rfl
@[simp] theorem State.setSerial_active (s : State) (v : Nat) : (s.setSerial v).active = s.active := rfl
@[simp] theorem State.setSerial_slots (s : State) (v : Nat) : (s.setSerial v).slots = s.slots := rfl
@[simp] theorem State.setSerial_cur (s : State) (v : Nat) : (s.setSerial v).cur = s.cur := rfl
@[simp] theorem State.setSerial_wctx (s : State) (v : Nat) : (s.setSerial v).wctx = s.wctx := rfl
@[simp] theorem State.setSerial_viol (s : State) (v : Nat) : (s.setSerial v).viol = s.viol := rfl
@[simp] theorem State.setSerial_res (s : State) (v : Nat) : (s.setSerial v).res = s.res := rfl
@[simp] theorem State.setSerial_env_mem (s : State) (v : Nat) : (s.setSerial v).env.mem = s.env.mem := rfl
@[simp] theorem State.setSerial_env_hostIn (s : State) (v : Nat) : (s.setSerial v).env.hostIn = s.env.hostIn := rfl
@[simp] theorem State.setSerial_env_engineIn (s : State) (v : Nat) : (s.setSerial v).env.engineIn = s.env.engineIn := rfl
@[simp] theorem State.setSerial_env_handlerIn (s : State) (v : Nat) : (s.setSerial v).env.handlerIn = s.env.handlerIn := rfl
@[simp] theorem State.setSerial_env_snapIn (s : State) (v : Nat) : (s.setSerial v).env.snapIn = s.env.snapIn := rfl
@[simp] theorem State.setSerial_env_serial (s : State) (v : Nat) : (s.setSerial v).env.serial = v := rfl
@[simp] theorem State.setSerial_env_ports (s : State) (v : Nat) : (s.setSerial v).env.ports = s.env.ports := rfl

/-! the record of the ports -/

@[simp] theorem State.log_count (s : State) (e : PortEvent) : (s.log e).count = s.count := rfl
@[simp] theorem State.log_active (s : State) (e : PortEvent) : (s.log e).active = s.active := rfl
@[simp] theorem State.log_slots (s : State) (e : PortEvent) : (s.log e).slots = s.slots := rfl
@[simp] theorem State.log_cur (s : State) (e : PortEvent) : (s.log e).cur = s.cur := rfl
@[simp] theorem State.log_wctx (s : State) (e : PortEvent) : (s.log e).wctx = s.wctx := rfl
@[simp] theorem State.log_viol (s : State) (e : PortEvent) : (s.log e).viol = s.viol := rfl
@[simp] theorem State.log_res (s : State) (e : PortEvent) : (s.log e).res = s.res := rfl
@[simp] theorem State.log_env_mem (s : State) (e : PortEvent) : (s.log e).env.mem = s.env.mem := rfl
@[simp] theorem State.log_env_hostIn (s : State) (e : PortEvent) : (s.log e).env.hostIn = s.env.hostIn := rfl
@[simp] theorem State.log_env_engineIn (s : State) (e : PortEvent) : (s.log e).env.engineIn = s.env.engineIn := rfl
@[simp] theorem State.log_env_handlerIn (s : State) (e : PortEvent) : (s.log e).env.handlerIn = s.env.handlerIn := rfl
@[simp] theorem State.log_env_snapIn (s : State) (e : PortEvent) : (s.log e).env.snapIn = s.env.snapIn := rfl
@[simp] theorem State.log_env_serial (s : State) (e : PortEvent) : (s.log e).env.serial = s.env.serial := rfl
@[simp] theorem State.log_env_ports (s : State) (e : PortEvent) : (s.log e).env.ports = s.env.ports ++ [e] := rfl

/-! the slots, read one at a time -/

theorem State.ext_slots {s t : State} (h : t.slots = s.slots) (a : Slot) : t.slot a = s.slot a := by
  simp [State.slot, h]

@[simp] theorem State.setCount_slot (s : State) (v : Cycles) (a : Slot) : (s.setCount v).slot a = s.slot a := rfl
@[simp] theorem State.setActive_slot (s : State) (v : Option Slot) (a : Slot) : (s.setActive v).slot a = s.slot a := rfl
@[simp] theorem State.setCur_slot (s : State) (v : Cycles) (a : Slot) : (s.setCur v).slot a = s.slot a := rfl
@[simp] theorem State.setWctx_slot (s : State) (v : WorkingContext) (a : Slot) : (s.setWctx v).slot a = s.slot a := rfl
@[simp] theorem State.setViol_slot (s : State) (v : Option Violation) (a : Slot) : (s.setViol v).slot a = s.slot a := rfl
@[simp] theorem State.setRes_slot (s : State) (v : Result) (a : Slot) : (s.setRes v).slot a = s.slot a := rfl
@[simp] theorem State.setMem_slot (s : State) (v : HostMem) (a : Slot) : (s.setMem v).slot a = s.slot a := rfl
@[simp] theorem State.setHostIn_slot (s : State) (v : List HostAct) (a : Slot) : (s.setHostIn v).slot a = s.slot a := rfl
@[simp] theorem State.setEngineIn_slot (s : State) (v : List EngineScript) (a : Slot) : (s.setEngineIn v).slot a = s.slot a := rfl
@[simp] theorem State.setHandlerIn_slot (s : State) (v : List HandlerScript) (a : Slot) : (s.setHandlerIn v).slot a = s.slot a := rfl
@[simp] theorem State.setSnapIn_slot (s : State) (v : List SnapScript) (a : Slot) : (s.setSnapIn v).slot a = s.slot a := rfl
@[simp] theorem State.setSerial_slot (s : State) (v : Nat) (a : Slot) : (s.setSerial v).slot a = s.slot a := rfl
@[simp] theorem State.log_slot (s : State) (e : PortEvent) (a : Slot) : (s.log e).slot a = s.slot a := rfl

@[simp] theorem State.setSlot_slot_self (s : State) (a : Slot) (v : Option Instance) : (s.setSlot a v).slot a = v := by
  simp [State.slot]

theorem State.setSlot_slot_ne (s : State) {a b : Slot} (v : Option Instance) (h : a ≠ b) :
    (s.setSlot a v).slot b = s.slot b := by
  have : a.val ≠ b.val := fun e => h (Fin.ext e)
  simp [State.slot, this]

theorem State.setSlot_slot (s : State) (a b : Slot) (v : Option Instance) :
    (s.setSlot a v).slot b = if a = b then v else s.slot b := by
  split
  · next h => subst h; simp
  · next h => exact State.setSlot_slot_ne s v h

/-- Putting back what a slot holds changes nothing. -/
theorem State.setSlot_same (s : State) (a : Slot) {v : Option Instance} (h : s.slot a = v) : s.setSlot a v = s := by
  subst h
  simp [State.setSlot, State.slot]

@[simp] theorem State.reset_slot (a : Slot) : State.reset.slot a = none := by
  simp [State.slot, State.reset]

/-! host memory through the state -/

@[simp] theorem State.pokeHost_mem (s : State) (h : HostAddr) (v : Byte) :
    (s.pokeHost h v).env.mem = HostMem.put s.env.mem h.toNat v := rfl
@[simp] theorem State.hwrite_mem (s : State) (h : HostAddr) (v : Byte) :
    (s.hwrite h v).env.mem = HostMem.put s.env.mem h.toNat v := rfl
@[simp] theorem State.hwrite_ports (s : State) (h : HostAddr) (v : Byte) :
    (s.hwrite h v).env.ports = s.env.ports ++ [.hwrite h v] := rfl
@[simp] theorem State.hread_mem (s : State) (h : HostAddr) : (s.hread h).env.mem = s.env.mem := rfl

end Sys2Proof.Machine
end

