-- ==== Sys2Proof/Laws/Memory.lean ====
section
/-! SUPPORT. The laws of host memory: a read after a write, the other bytes, and the canonical form. -/

namespace Sys2Proof.Machine

/-- The canonical form as a proposition. -/
theorem HostMem.wf_iff (m : HostMem) :
    HostMem.wf m = true ↔
      m.Pairwise (fun c d => c.1 < d.1) ∧ ∀ c ∈ m, c.1 < 2 ^ 64 ∧ c.2 ≠ unlistedByte := by
  simp [HostMem.wf, Config.hostW]

theorem HostMem.wf_nil : HostMem.wf [] = true := by simp [HostMem.wf_iff]

theorem HostMem.wf_cons (c : Host.Cell) (m : HostMem) :
    HostMem.wf (c :: m) = true ↔
      (∀ d ∈ m, c.1 < d.1) ∧ (c.1 < 2 ^ 64 ∧ c.2 ≠ unlistedByte) ∧ HostMem.wf m = true := by
  simp only [HostMem.wf_iff, List.pairwise_cons, List.mem_cons, forall_eq_or_imp]
  tauto

/-- An address below every listed one is unlisted. -/
theorem HostMem.look_of_lt (m : HostMem) (h : Nat) (hm : ∀ d ∈ m, h < d.1) :
    HostMem.look m h = unlistedByte := by
  induction m with
  | nil => rfl
  | cons c m ih =>
    obtain ⟨a, w⟩ := c
    have ha : h < a := hm (a, w) (by simp)
    simp only [HostMem.look, Nat.ne_of_gt ha, if_false]
    exact ih fun d hd => hm d (by simp [hd])

/-- A read after a write to the same byte gives the byte written. -/
theorem HostMem.look_put_self (m : HostMem) (h : Nat) (v : Byte) (hm : HostMem.wf m = true) :
    HostMem.look (HostMem.put m h v) h = v := by
  induction m with
  | nil => by_cases hv : v = unlistedByte <;> simp [HostMem.put, HostMem.look, hv]
  | cons c m ih =>
    obtain ⟨a, w⟩ := c
    obtain ⟨hlt, -, hm⟩ := (HostMem.wf_cons _ _).1 hm
    by_cases h1 : a < h
    · simp [HostMem.put, HostMem.look, h1, Nat.ne_of_lt h1, ih hm]
    · by_cases h2 : a = h
      · subst h2
        by_cases hv : v = unlistedByte
        · simp [HostMem.put, hv, HostMem.look_of_lt m a hlt]
        · simp [HostMem.put, HostMem.look, hv]
      · by_cases hv : v = unlistedByte
        · have h3 : ∀ d ∈ m, h < d.1 := fun d hd => by have := hlt d hd; simp only at this; omega
          simp [HostMem.put, HostMem.look, h1, h2, hv, HostMem.look_of_lt m h h3]
        · simp [HostMem.put, HostMem.look, h1, h2, hv]

/-- A write leaves every other byte alone. -/
theorem HostMem.look_put_ne (m : HostMem) (h g : Nat) (v : Byte) (hne : g ≠ h) :
    HostMem.look (HostMem.put m h v) g = HostMem.look m g := by
  induction m with
  | nil => by_cases hv : v = unlistedByte <;> simp [HostMem.put, HostMem.look, hv, hne.symm]
  | cons c m ih =>
    obtain ⟨a, w⟩ := c
    by_cases h1 : a < h
    · simp [HostMem.put, HostMem.look, h1, ih]
    · by_cases h2 : a = h
      · subst h2
        by_cases hv : v = unlistedByte <;> simp [HostMem.put, HostMem.look, hv, hne.symm]
      · by_cases hv : v = unlistedByte <;> simp [HostMem.put, HostMem.look, h1, h2, hv, hne.symm]

/-- The addresses listed after a write are among those before it and the one written. -/
theorem HostMem.put_mem (m : HostMem) (h : Nat) (v : Byte) (d : Host.Cell) (hd : d ∈ HostMem.put m h v) :
    d ∈ m ∨ (d = (h, v) ∧ v ≠ unlistedByte) := by
  induction m with
  | nil =>
    by_cases hv : v = unlistedByte
    · simp [HostMem.put, hv] at hd
    · simp [HostMem.put, hv] at hd
      exact .inr ⟨hd, hv⟩
  | cons c m ih =>
    obtain ⟨a, w⟩ := c
    simp only [HostMem.put] at hd
    split at hd
    · rcases List.mem_cons.1 hd with rfl | hd
      · simp
      · rcases ih hd with hd | hd <;> simp [hd]
    · split at hd
      · split at hd
        · simp [hd]
        · next hv => rcases List.mem_cons.1 hd with rfl | hd <;> simp [*]
      · split at hd
        · exact .inl hd
        · next hv => rcases List.mem_cons.1 hd with rfl | hd <;> simp [*]

/-- A write keeps the canonical form. -/
theorem HostMem.put_wf (m : HostMem) (h : Nat) (v : Byte) (hh : h < 2 ^ 64) (hm : HostMem.wf m = true) :
    HostMem.wf (HostMem.put m h v) = true := by
  induction m with
  | nil =>
    by_cases hv : v = unlistedByte
    · simp [HostMem.put, HostMem.wf_nil, hv]
    · simpa [HostMem.put, HostMem.wf_cons, HostMem.wf_nil, hv] using hh
  | cons c m ih =>
    obtain ⟨a, w⟩ := c
    obtain ⟨hlt, hc, hm'⟩ := (HostMem.wf_cons _ _).1 hm
    simp only at hlt hc
    simp only [HostMem.put]
    split
    · next h1 =>
      refine (HostMem.wf_cons _ _).2 ⟨fun d hd => ?_, hc, ih hm'⟩
      rcases HostMem.put_mem m h v d hd with hd | ⟨rfl, -⟩
      · exact hlt d hd
      · exact h1
    · split
      · next h2 =>
        subst h2
        split
        · exact hm'
        · next hv => exact (HostMem.wf_cons _ _).2 ⟨hlt, ⟨hh, hv⟩, hm'⟩
      · split
        · exact hm
        · next h1 h2 hv =>
          refine (HostMem.wf_cons _ _).2 ⟨fun d hd => ?_, ⟨hh, hv⟩, hm⟩
          rcases List.mem_cons.1 hd with rfl | hd
          · simp only; omega
          · have := hlt d hd; simp only; omega

/-! The same through the state. -/

@[simp] theorem State.pokeHost_hostByte_self (s : State) (h : HostAddr) (v : Byte) (hm : s.MemWf) :
    (s.pokeHost h v).hostByte h = v :=
  HostMem.look_put_self _ _ _ hm

theorem State.pokeHost_hostByte_ne (s : State) (h g : HostAddr) (v : Byte) (hne : g ≠ h) :
    (s.pokeHost h v).hostByte g = s.hostByte g :=
  HostMem.look_put_ne _ _ _ _ fun e => hne (BitVec.eq_of_toNat_eq e)

theorem State.pokeHost_memWf (s : State) (h : HostAddr) (v : Byte) (hm : s.MemWf) : (s.pokeHost h v).MemWf :=
  HostMem.put_wf _ _ _ h.isLt hm

/-- An update that leaves host memory alone keeps its canonical form. -/
theorem State.memWf_of_mem_eq {s t : State} (h : t.env.mem = s.env.mem) (hm : s.MemWf) : t.MemWf := by
  simpa [State.MemWf, h] using hm

theorem State.hwrite_memWf (s : State) (h : HostAddr) (v : Byte) (hm : s.MemWf) : (s.hwrite h v).MemWf :=
  State.memWf_of_mem_eq (s := s.pokeHost h v) rfl (s.pokeHost_memWf h v hm)

theorem State.pokeAll_memWf (acts : List HandlerAct) : ∀ s : State, s.MemWf → (s.pokeAll acts).MemWf := by
  induction acts with
  | nil => exact fun _ h => h
  | cons act rest ih =>
    intro s hs
    cases act with
    | hostWrite h v => exact ih _ (s.pokeHost_memWf h v hs)
    | command cw => exact ih _ hs

end Sys2Proof.Machine
end

