-- ==== Sys2Proof/Laws/Ops.lean ====
section
/-! SUPPORT. One lemma for each shared operation that says what it can do: inversions (if it answers a next state, then
one of these cases holds) and evaluations (under these facts, this is what it answers). -/

namespace Sys2Proof.Machine

/-! Sequencing. -/

@[simp] theorem andThen_next (s : State) (k : State → Out) : andThen (.next s) k = k s := rfl
@[simp] theorem andThen_fault (f : Fault) (k : State → Out) : andThen (.fault f) k = .fault f := rfl
@[simp] theorem andThen_refused (r : Refusal) (k : State → Out) : andThen (.refused r) k = .refused r := rfl

theorem andThen_eq_next {o : Out} {k : State → Out} {t : State} :
    andThen o k = .next t ↔ ∃ s, o = .next s ∧ k s = .next t := by
  cases o <;> simp [andThen]

theorem andThen_assoc (o : Out) (k l : State → Out) :
    andThen (andThen o k) l = andThen o fun s => andThen (k s) l := by
  cases o <;> rfl

/-- Two parts of a command that agree where the first one continues agree. -/
theorem andThen_congr {o : Out} {k l : State → Out} (h : ∀ s, o = .next s → k s = l s) : andThen o k = andThen o l := by
  cases o with
  | next s => exact h s rfl
  | fault f => rfl
  | refused r => rfl

@[simp] theorem finish_eq_next {s t : State} {r : Result} : finish s r = .next t ↔ s.setRes r = t := by
  simp [finish]

@[simp] theorem answer_eq_next {s t : State} : answer s = .next t ↔ s.log (.done s.res) = t := by
  simp [answer]

/-! The violation mechanism (R230). -/

@[simp] theorem violation_eq_next {s t : State} {v : Violation} : violation s v = .next t ↔ s.violate v = t := by
  simp [violation]

@[simp] theorem State.violate_count (s : State) (v : Violation) : (s.violate v).count = s.count := rfl
@[simp] theorem State.violate_active (s : State) (v : Violation) : (s.violate v).active = s.active := rfl
@[simp] theorem State.violate_slots (s : State) (v : Violation) : (s.violate v).slots = s.slots := rfl
@[simp] theorem State.violate_slot (s : State) (v : Violation) (a : Slot) : (s.violate v).slot a = s.slot a := rfl
@[simp] theorem State.violate_cur (s : State) (v : Violation) : (s.violate v).cur = s.cur := rfl
@[simp] theorem State.violate_wctx (s : State) (v : Violation) : (s.violate v).wctx = s.wctx := rfl
@[simp] theorem State.violate_viol (s : State) (v : Violation) :
    (s.violate v).viol = recordViolation s.viol v := rfl
@[simp] theorem State.violate_res (s : State) (v : Violation) : (s.violate v).res = violationResult := rfl
@[simp] theorem State.violate_ports (s : State) (v : Violation) :
    (s.violate v).env.ports = s.env.ports ++ [.warn v] := rfl
@[simp] theorem State.violate_mem (s : State) (v : Violation) : (s.violate v).env.mem = s.env.mem := rfl

@[simp] theorem recordViolation_none (v : Violation) : recordViolation none v = some v := rfl
@[simp] theorem recordViolation_some (u v : Violation) : recordViolation (some u) v = some u := rfl

/-- A recorded violation is never none. -/
theorem recordViolation_ne_none (o : Option Violation) (v : Violation) : recordViolation o v ≠ none := by
  cases o <;> simp

/-! The checks. -/

theorem checkInit_eq_next {s t : State} {k : Out} :
    checkInit s k = .next t ↔ (s.count = 0#32 ∧ s.violate .noInit = t) ∨ (s.count ≠ 0#32 ∧ k = .next t) := by
  unfold checkInit
  split <;> simp [*]

theorem checkInit_of {s : State} (h : s.count ≠ 0#32) (k : Out) : checkInit s k = k := by simp [checkInit, h]

theorem checkActive_eq_next {s t : State} {k : Slot → Out} :
    checkActive s k = .next t ↔
      (s.active = none ∧ s.violate .noActive = t) ∨ ∃ a, s.active = some a ∧ k a = .next t := by
  unfold checkActive
  split <;> simp [*]

theorem checkActive_of {s : State} {a : Slot} (h : s.active = some a) (k : Slot → Out) : checkActive s k = k a := by
  simp [checkActive, h]

theorem commonChecks_eq_next {s t : State} {k : Slot → Out} :
    commonChecks s k = .next t ↔
      (s.count = 0#32 ∧ s.violate .noInit = t) ∨ (s.count ≠ 0#32 ∧ s.active = none ∧ s.violate .noActive = t) ∨
        (s.count ≠ 0#32 ∧ ∃ a, s.active = some a ∧ k a = .next t) := by
  simp only [commonChecks, checkInit_eq_next, checkActive_eq_next]
  tauto

theorem commonChecks_of {s : State} {a : Slot} (hc : s.count ≠ 0#32) (ha : s.active = some a) (k : Slot → Out) :
    commonChecks s k = k a := by
  rw [commonChecks, checkInit_of hc, checkActive_of ha]

theorem checkLive_eq_next {s t : State} {b : BitVec 8} {k : Slot → Instance → Out} :
    checkLive s b k = .next t ↔
      (s.isLive b = false ∧ s.violate .badSlot = t) ∨
        ∃ a i, slotOf b = some a ∧ s.slot a = some i ∧ k a i = .next t := by
  unfold checkLive State.isLive
  split
  · simp [*]
  · next a ha =>
    split <;> simp [*]

theorem checkLive_of {s : State} {b : BitVec 8} {a : Slot} {i : Instance} (hb : slotOf b = some a)
    (hi : s.slot a = some i) (k : Slot → Instance → Out) : checkLive s b k = k a i := by
  simp [checkLive, hb, hi]

/-! The accessors. -/

theorem withInstance_eq_next {s t : State} {a : Slot} {k : Instance → Out} :
    withInstance s a k = .next t ↔ ∃ i, s.slot a = some i ∧ k i = .next t := by
  unfold withInstance
  split <;> simp [*]

theorem withInstance_of {s : State} {a : Slot} {i : Instance} (h : s.slot a = some i) (k : Instance → Out) :
    withInstance s a k = k i := by
  simp [withInstance, h]

theorem withActive_eq_next {s t : State} {k : Slot → Instance → Out} :
    withActive s k = .next t ↔ ∃ a i, s.active = some a ∧ s.slot a = some i ∧ k a i = .next t := by
  unfold withActive
  split <;> simp [*, withInstance_eq_next]

theorem withActive_of {s : State} {a : Slot} {i : Instance} (ha : s.active = some a) (hi : s.slot a = some i)
    (k : Slot → Instance → Out) : withActive s k = k a i := by
  simp [withActive, ha, withInstance, hi]

theorem withContext_eq_next {s t : State} {k : Ctx → Out} :
    withContext s k = .next t ↔ ∃ c, s.wctx = .live c ∧ k c = .next t := by
  unfold withContext
  split <;> simp [*]

theorem withContext_of {s : State} {c : Ctx} (h : s.wctx = .live c) (k : Ctx → Out) : withContext s k = k c := by
  simp [withContext, h]

/-! The context swap. -/

/-- `save_context` and `load_context` are inverse to each other (R126). -/
@[simp] theorem save_load (rb : Ctx) : saveContext (loadContext rb) = rb := rfl
@[simp] theorem load_save (c : Ctx) : loadContext (saveContext c) = c := rfl

/-- The state after the state changes of OPEN (R102). -/
def opened (s : State) (a : Slot) (i : Instance) : State :=
  (((s.setActive (some a)).setWctx (.live (loadContext i.rb))).setCur i.total).log (.ectl a .shared .loadContext)

/-- The state after the state changes of CLOSE (R103). -/
def closed (s : State) (a : Slot) (i : Instance) (c : Ctx) : State :=
  (((s.setSlot a (some { i with rb := saveContext c, total := s.cur })).setWctx .poison).setActive none).log
    (.ectl a .shared .saveContext)

theorem doOpen_eq_next {s t : State} {a : Slot} {k : State → Out} :
    doOpen s a k = .next t ↔ ∃ i, s.slot a = some i ∧ k (opened s a i) = .next t := by
  simp [doOpen, withInstance_eq_next, opened]

theorem doOpen_of {s : State} {a : Slot} {i : Instance} (h : s.slot a = some i) (k : State → Out) :
    doOpen s a k = k (opened s a i) := by
  simp [doOpen, withInstance_of h, opened]

theorem doClose_eq_next {s t : State} {k : State → Out} :
    doClose s k = .next t ↔
      ∃ a i c, s.active = some a ∧ s.slot a = some i ∧ s.wctx = .live c ∧ k (closed s a i c) = .next t := by
  simp only [doClose, withActive_eq_next, withContext_eq_next, closed]
  constructor
  · rintro ⟨a, i, ha, hi, c, hc, hk⟩; exact ⟨a, i, c, ha, hi, hc, hk⟩
  · rintro ⟨a, i, c, ha, hi, hc, hk⟩; exact ⟨a, i, ha, hi, c, hc, hk⟩

theorem doClose_of {s : State} {a : Slot} {i : Instance} {c : Ctx} (ha : s.active = some a) (hi : s.slot a = some i)
    (hc : s.wctx = .live c) (k : State → Out) : doClose s k = k (closed s a i c) := by
  simp [doClose, withActive_of ha hi, withContext_of hc, closed]

@[simp] theorem opened_active (s : State) (a : Slot) (i : Instance) : (opened s a i).active = some a := rfl
@[simp] theorem opened_wctx (s : State) (a : Slot) (i : Instance) :
    (opened s a i).wctx = .live (loadContext i.rb) := rfl
@[simp] theorem opened_cur (s : State) (a : Slot) (i : Instance) : (opened s a i).cur = i.total := rfl
@[simp] theorem opened_count (s : State) (a : Slot) (i : Instance) : (opened s a i).count = s.count := rfl
@[simp] theorem opened_slots (s : State) (a : Slot) (i : Instance) : (opened s a i).slots = s.slots := rfl
@[simp] theorem opened_slot (s : State) (a : Slot) (i : Instance) (b : Slot) :
    (opened s a i).slot b = s.slot b := rfl
@[simp] theorem opened_viol (s : State) (a : Slot) (i : Instance) : (opened s a i).viol = s.viol := rfl

@[simp] theorem closed_active (s : State) (a : Slot) (i : Instance) (c : Ctx) : (closed s a i c).active = none := rfl
@[simp] theorem closed_wctx (s : State) (a : Slot) (i : Instance) (c : Ctx) : (closed s a i c).wctx = .poison := rfl
@[simp] theorem closed_cur (s : State) (a : Slot) (i : Instance) (c : Ctx) : (closed s a i c).cur = s.cur := rfl
@[simp] theorem closed_count (s : State) (a : Slot) (i : Instance) (c : Ctx) : (closed s a i c).count = s.count := rfl
@[simp] theorem closed_viol (s : State) (a : Slot) (i : Instance) (c : Ctx) : (closed s a i c).viol = s.viol := rfl
theorem closed_slot (s : State) (a : Slot) (i : Instance) (c : Ctx) (b : Slot) :
    (closed s a i c).slot b =
      if a = b then some { i with rb := saveContext c, total := s.cur } else s.slot b :=
  State.setSlot_slot s a b _

/-! The inputs of the environment: the block's state and host memory are not touched by taking one. -/

/-- Taking an engine script uses up the first one, or a serial number. -/
theorem nextEngine_snd (s : State) (r : Routine) (call : EngineCall) (c : Ctx) :
    (nextEngine s r call c).2 = s.setEngineIn s.env.engineIn.tail ∨ (nextEngine s r call c).2 = s.useSerial := by
  unfold nextEngine
  split <;> simp [*]

/-- Taking a handler script uses up the first one, or a serial number. -/
theorem nextHandler_snd (s : State) (id : HandlerId) (sel : CbIndex) (a : Addr) :
    (nextHandler s id sel a).2 = s.setHandlerIn s.env.handlerIn.tail ∨ (nextHandler s id sel a).2 = s.useSerial := by
  unfold nextHandler
  split <;> simp [*]

/-- Taking a snapshot script uses up the first one, or a serial number. -/
theorem nextSnap_snd (s : State) (a : Slot) :
    (nextSnap s a).2 = s.setSnapIn s.env.snapIn.tail ∨ (nextSnap s a).2 = s.useSerial := by
  unfold nextSnap
  split <;> simp [*]

@[simp] theorem nextEngine_count (s : State) (r call c) : (nextEngine s r call c).2.count = s.count := by
  rcases nextEngine_snd s r call c with h | h <;> rw [h] <;> rfl
@[simp] theorem nextEngine_active (s : State) (r call c) : (nextEngine s r call c).2.active = s.active := by
  rcases nextEngine_snd s r call c with h | h <;> rw [h] <;> rfl
@[simp] theorem nextEngine_slots (s : State) (r call c) : (nextEngine s r call c).2.slots = s.slots := by
  rcases nextEngine_snd s r call c with h | h <;> rw [h] <;> rfl
@[simp] theorem nextEngine_slot (s : State) (r call c) (a : Slot) : (nextEngine s r call c).2.slot a = s.slot a :=
  State.ext_slots (nextEngine_slots s r call c) a
@[simp] theorem nextEngine_cur (s : State) (r call c) : (nextEngine s r call c).2.cur = s.cur := by
  rcases nextEngine_snd s r call c with h | h <;> rw [h] <;> rfl
@[simp] theorem nextEngine_wctx (s : State) (r call c) : (nextEngine s r call c).2.wctx = s.wctx := by
  rcases nextEngine_snd s r call c with h | h <;> rw [h] <;> rfl
@[simp] theorem nextEngine_viol (s : State) (r call c) : (nextEngine s r call c).2.viol = s.viol := by
  rcases nextEngine_snd s r call c with h | h <;> rw [h] <;> rfl
@[simp] theorem nextEngine_mem (s : State) (r call c) : (nextEngine s r call c).2.env.mem = s.env.mem := by
  rcases nextEngine_snd s r call c with h | h <;> rw [h] <;> rfl
@[simp] theorem nextEngine_ports (s : State) (r call c) : (nextEngine s r call c).2.env.ports = s.env.ports := by
  rcases nextEngine_snd s r call c with h | h <;> rw [h] <;> rfl
@[simp] theorem nextEngine_handlerIn (s : State) (r call c) :
    (nextEngine s r call c).2.env.handlerIn = s.env.handlerIn := by
  rcases nextEngine_snd s r call c with h | h <;> rw [h] <;> rfl
@[simp] theorem nextEngine_snapIn (s : State) (r call c) :
    (nextEngine s r call c).2.env.snapIn = s.env.snapIn := by
  rcases nextEngine_snd s r call c with h | h <;> rw [h] <;> rfl

@[simp] theorem nextHandler_count (s : State) (id sel a) : (nextHandler s id sel a).2.count = s.count := by
  rcases nextHandler_snd s id sel a with h | h <;> rw [h] <;> rfl
@[simp] theorem nextHandler_active (s : State) (id sel a) : (nextHandler s id sel a).2.active = s.active := by
  rcases nextHandler_snd s id sel a with h | h <;> rw [h] <;> rfl
@[simp] theorem nextHandler_slots (s : State) (id sel a) : (nextHandler s id sel a).2.slots = s.slots := by
  rcases nextHandler_snd s id sel a with h | h <;> rw [h] <;> rfl
@[simp] theorem nextHandler_slot (s : State) (id sel a) (b : Slot) :
    (nextHandler s id sel a).2.slot b = s.slot b :=
  State.ext_slots (nextHandler_slots s id sel a) b
@[simp] theorem nextHandler_cur (s : State) (id sel a) : (nextHandler s id sel a).2.cur = s.cur := by
  rcases nextHandler_snd s id sel a with h | h <;> rw [h] <;> rfl
@[simp] theorem nextHandler_wctx (s : State) (id sel a) : (nextHandler s id sel a).2.wctx = s.wctx := by
  rcases nextHandler_snd s id sel a with h | h <;> rw [h] <;> rfl
@[simp] theorem nextHandler_viol (s : State) (id sel a) : (nextHandler s id sel a).2.viol = s.viol := by
  rcases nextHandler_snd s id sel a with h | h <;> rw [h] <;> rfl
@[simp] theorem nextHandler_mem (s : State) (id sel a) : (nextHandler s id sel a).2.env.mem = s.env.mem := by
  rcases nextHandler_snd s id sel a with h | h <;> rw [h] <;> rfl
@[simp] theorem nextHandler_ports (s : State) (id sel a) :
    (nextHandler s id sel a).2.env.ports = s.env.ports := by
  rcases nextHandler_snd s id sel a with h | h <;> rw [h] <;> rfl

@[simp] theorem nextSnap_count (s : State) (a) : (nextSnap s a).2.count = s.count := by
  rcases nextSnap_snd s a with h | h <;> rw [h] <;> rfl
@[simp] theorem nextSnap_active (s : State) (a) : (nextSnap s a).2.active = s.active := by
  rcases nextSnap_snd s a with h | h <;> rw [h] <;> rfl
@[simp] theorem nextSnap_slots (s : State) (a) : (nextSnap s a).2.slots = s.slots := by
  rcases nextSnap_snd s a with h | h <;> rw [h] <;> rfl
@[simp] theorem nextSnap_slot (s : State) (a) (b : Slot) : (nextSnap s a).2.slot b = s.slot b :=
  State.ext_slots (nextSnap_slots s a) b
@[simp] theorem nextSnap_cur (s : State) (a) : (nextSnap s a).2.cur = s.cur := by
  rcases nextSnap_snd s a with h | h <;> rw [h] <;> rfl
@[simp] theorem nextSnap_wctx (s : State) (a) : (nextSnap s a).2.wctx = s.wctx := by
  rcases nextSnap_snd s a with h | h <;> rw [h] <;> rfl
@[simp] theorem nextSnap_viol (s : State) (a) : (nextSnap s a).2.viol = s.viol := by
  rcases nextSnap_snd s a with h | h <;> rw [h] <;> rfl
@[simp] theorem nextSnap_mem (s : State) (a) : (nextSnap s a).2.env.mem = s.env.mem := by
  rcases nextSnap_snd s a with h | h <;> rw [h] <;> rfl

/-! Handlers. -/

/-- A handler that issues no nested command changes host memory and nothing else. -/
theorem handlerActs_of_writes (nest : Nest) (acts : List HandlerAct) :
    ∀ s : State, acts.all HandlerAct.isWrite = true → handlerActs nest acts s = .next (s.pokeAll acts) := by
  induction acts with
  | nil => intro s _; rfl
  | cons act rest ih =>
    intro s h
    cases act with
    | command cw => simp [HandlerAct.isWrite] at h
    | hostWrite a v => exact ih _ (by simpa [HandlerAct.isWrite] using h)

@[simp] theorem State.pokeAll_active (acts : List HandlerAct) : ∀ s : State, (s.pokeAll acts).active = s.active := by
  induction acts with
  | nil => exact fun _ => rfl
  | cons act rest ih => intro s; cases act <;> exact ih _

theorem State.pokeAll_sameBlock (acts : List HandlerAct) : ∀ s : State, s.SameBlock (s.pokeAll acts) := by
  induction acts with
  | nil => exact fun _ => ⟨rfl, rfl, rfl, rfl, rfl, rfl⟩
  | cons act rest ih =>
    intro s
    cases act with
    | command cw => exact ih s
    | hostWrite a v => obtain ⟨h1, h2, h3, h4, h5, h6⟩ := ih (s.pokeHost a v); exact ⟨h1, h2, h3, h4, h5, h6⟩

@[simp] theorem State.pokeAll_ports (acts : List HandlerAct) :
    ∀ s : State, (s.pokeAll acts).env.ports = s.env.ports := by
  induction acts with
  | nil => exact fun _ => rfl
  | cons act rest ih => intro s; cases act <;> exact ih _

/-- What a handler call can do: the access goes on with the handler's byte, or it ends with ACTIVE_CHANGED (R151,
R239). -/
theorem callHandler_eq_next {nest : Nest} {id : HandlerId} {sel : CbIndex} {a : Addr} {d : Option Byte} {s t : State}
    {k : Byte → State → Out} :
    callHandler nest id sel a d s k = .next t ↔
      ∃ u, handlerActs nest (nextHandler s id sel a).1.acts ((nextHandler s id sel a).2.log (.cb id sel a d)) = .next u ∧
        ((u.active = s.active ∧ k (nextHandler s id sel a).1.answer u = .next t) ∨
          (u.active ≠ s.active ∧ u.violate .activeChanged = t)) := by
  simp only [callHandler, andThen_eq_next]
  constructor
  · rintro ⟨u, hu, h⟩
    refine ⟨u, hu, ?_⟩
    split at h <;> simp_all
  · rintro ⟨u, hu, ⟨h1, h2⟩ | ⟨h1, h2⟩⟩ <;> exact ⟨u, hu, by simp [h1, h2]⟩

/-- A call of a handler that issues no nested command. -/
theorem callHandler_of_writes (nest : Nest) (id : HandlerId) (sel : CbIndex) (a : Addr) (d : Option Byte) (s : State)
    (k : Byte → State → Out) (h : (nextHandler s id sel a).1.acts.all HandlerAct.isWrite = true) :
    callHandler nest id sel a d s k =
      k (nextHandler s id sel a).1.answer
        (((nextHandler s id sel a).2.log (.cb id sel a d)).pokeAll (nextHandler s id sel a).1.acts) := by
  simp [callHandler, handlerActs_of_writes nest _ _ h]

/-- The next handler script of a quiet state issues no nested command. -/
theorem nextHandler_isWrite {s : State} (h : s.quiet = true) (id : HandlerId) (sel : CbIndex) (a : Addr) :
    (nextHandler s id sel a).1.acts.all HandlerAct.isWrite = true := by
  unfold nextHandler
  split
  · next e rest he =>
    simp only [State.quiet, he, Bool.and_eq_true, List.all_cons] at h
    exact h.1.1.1
  · rfl

/-! Engine invocations. -/

/-- What an engine invocation can do: the acts of the behaviour run, and the command goes on with its count. -/
theorem invoke_eq_next {nest : Nest} {call : EngineCall} {s t : State} {k : Cycles → State → Out} :
    invoke nest call s k = .next t ↔
      ∃ a i c u, s.active = some a ∧ s.slot a = some i ∧ s.wctx = .live c ∧
        engineActs nest (nextEngine s (routineOf i.variant call) call c).1.acts
          ((nextEngine s (routineOf i.variant call) call c).2.log (.ectl a (routineOf i.variant call) call)) = .next u ∧
        k (nextEngine s (routineOf i.variant call) call c).1.consumed u = .next t := by
  simp only [invoke, withActive_eq_next, withContext_eq_next, andThen_eq_next]
  constructor
  · rintro ⟨a, i, ha, hi, c, hc, u, hu, hk⟩; exact ⟨a, i, c, u, ha, hi, hc, hu, hk⟩
  · rintro ⟨a, i, c, u, ha, hi, hc, hu, hk⟩; exact ⟨a, i, ha, hi, c, hc, u, hu, hk⟩

theorem invoke_of {nest : Nest} {call : EngineCall} {s : State} {a : Slot} {i : Instance} {c : Ctx}
    {k : Cycles → State → Out} (ha : s.active = some a) (hi : s.slot a = some i) (hc : s.wctx = .live c) :
    invoke nest call s k =
      andThen
        (engineActs nest (nextEngine s (routineOf i.variant call) call c).1.acts
          ((nextEngine s (routineOf i.variant call) call c).2.log (.ectl a (routineOf i.variant call) call)))
        fun u => k (nextEngine s (routineOf i.variant call) call c).1.consumed u := by
  simp [invoke, withActive_of ha hi, withContext_of hc]

/-- The acts of a behaviour, one after another. -/
theorem engineActs_append (nest : Nest) (xs ys : List EngineAct) :
    ∀ s, engineActs nest (xs ++ ys) s = andThen (engineActs nest xs s) (engineActs nest ys) := by
  induction xs with
  | nil => exact fun _ => rfl
  | cons act rest ih =>
    intro s
    cases act with
    | setContext c => exact ih _
    | access kind addr wdata => simp only [List.cons_append, engineActs, andThen_assoc]; exact andThen_congr fun _ _ => ih _

/-! Translation and the page tables. -/

@[simp] theorem translate_fst (t : PageTable) (mask addr : Addr) : (translateAddr t mask addr).1 = addr &&& mask := rfl

/-- `base + k` is exact as long as the HOST keeps its duty (R43). -/
theorem hostAddr_toNat (base : HostAddr) (k : Nat) (h : base.toNat + k < 2 ^ 64) :
    (hostAddr base k).toNat = base.toNat + k := by
  have h2 : base.toNat + k < 2 ^ Config.hostW := h
  rw [hostAddr, if_pos h2, BitVec.toNat_ofNat, Nat.mod_eq_of_lt h2]

/-- An entry after MAPRANGE (R140). -/
theorem mapPages_entry (t : PageTable) (buffer : Option HostAddr) (start stop : Addr) (p : BitVec 8) :
    (mapPages t buffer start stop).entry p =
      if (pageOf start).toNat ≤ p.toNat ∧ p.toNat ≤ (pageOf stop).toNat then
        rangeEntry buffer (pageOf start).toNat p.toNat
      else t.entry p := by
  simp only [mapPages, PageTable.entry, Vector.getElem_ofFn]
  rfl

@[simp] theorem RemapTable.put_entry (t : RemapTable) (index value b : Byte) :
    (t.put index value).entry b = if index = b then value else t.entry b := by
  simp [RemapTable.put, RemapTable.entry, Vector.getElem_set, BitVec.toNat_inj]

/-- An entry of REMAP after CREATE (R32). -/
theorem initialRemap_entry (v : Variant) (b : Byte) :
    (initialRemap v).entry b = if isScrambled v then scramble b else b := by
  simp [initialRemap, RemapTable.entry]

/-- An operand that names a slot is that slot's number. -/
theorem slotOf_eq_some {b : BitVec 8} {a : Slot} : slotOf b = some a ↔ b.toNat = a.val := by
  unfold slotOf
  split
  · simp [Fin.ext_iff]
  · next h => simp; have := a.isLt; omega

theorem slotOf_eq_none {b : BitVec 8} : slotOf b = none ↔ Config.maxCpu ≤ b.toNat := by
  unfold slotOf
  split <;> simp_all

/-! The step. -/

/-- A step on a command word. -/
theorem step_command {s : State} {cw : CommandWord} {rest : List HostAct} (h : s.env.hostIn = .command cw :: rest) :
    step s = runWord cw (s.setHostIn rest) := by
  simp [step, h]

/-- What a step can do: wait, take a command word, take a change of host memory, or take the hardware reset. -/
theorem step_eq_next {s t : State} :
    step s = .next t ↔
      (s.env.hostIn = [] ∧ s = t) ∨
      (∃ cw rest, s.env.hostIn = .command cw :: rest ∧ runWord cw (s.setHostIn rest) = .next t) ∨
      (∃ h v rest, s.env.hostIn = .hostWrite h v :: rest ∧ (s.setHostIn rest).pokeHost h v = t) ∨
      (∃ rest, s.env.hostIn = .hardwareReset :: rest ∧ (s.setHostIn rest).hardwareReset = t) := by
  unfold step
  split <;> simp [*]

/-- What a word on port CMD can do. -/
theorem runWord_eq_next {cw : CommandWord} {s t : State} :
    runWord cw s = .next t ↔
      ∃ u, u.log (.done u.res) = t ∧
        ((∃ i, decode cw = .ok i ∧ exec i s = .next u) ∨
          (∃ e, decode cw = .rejected e ∧ s.violate .badCommand = u)) := by
  simp only [runWord, andThen_eq_next, answer_eq_next]
  cases h : decode cw <;> simp [and_comm]

end Sys2Proof.Machine
end

