-- ==== Sys2Proof/Laws/Chain.lean ====
section
/-! SUPPORT. What a command can do to the state, said once: every next state of a command is reached from the state it
began in by a chain of the changes of `Change`, whatever its handlers, engine behaviours and nested commands did. An
invariant that each change keeps is kept by every command and every step. -/

namespace Sys2Proof.Machine

/-- The changes a command is made of. -/
inductive Change : State → State → Prop
  /-- a transfer on a port -/
  | log (s : State) (e : PortEvent) : Change s (s.log e)
  /-- RES takes a result (R17) -/
  | setRes (s : State) (r : Result) : Change s (s.setRes r)
  /-- a violation (R230) -/
  | violate (s : State) (v : Violation) : Change s (s.violate v)
  /-- a byte of host memory takes a value (R43) -/
  | poke (s : State) (h : HostAddr) (v : Byte) : Change s (s.pokeHost h v)
  /-- an engine, handler or snapshot script is taken, or a serial number used -/
  | engine (s : State) (r : Routine) (call : EngineCall) (c : Ctx) : Change s (nextEngine s r call c).2
  | handler (s : State) (id : HandlerId) (sel : CbIndex) (a : Addr) : Change s (nextHandler s id sel a).2
  | snap (s : State) (a : Slot) : Change s (nextSnap s a).2
  /-- the engine writes the working context -/
  | context (s : State) (c : Ctx) : Change s (s.setWctx (.live c))
  /-- CUR takes a value (R200 to R202) -/
  | cur (s : State) (v : Cycles) : Change s (s.setCur v)
  /-- the state changes of OPEN and CLOSE (R102, R103) -/
  | opened (s : State) (a : Slot) (i : Instance) (hi : s.slot a = some i) : Change s (opened s a i)
  | closed (s : State) (a : Slot) (i : Instance) (c : Ctx) (hi : s.slot a = some i) (hc : s.wctx = .live c) :
      Change s (closed s a i c)
  /-- CREATE fills a slot while none is active, and ends (R100) -/
  | filled (s : State) (a : Slot) (v : Variant) (hn : s.active = none) : Change s (createFilled s a v)
  /-- DESTROY, while none is active (R101) -/
  | destroyed (s : State) (hn : s.active = none) :
      Change s ((s.setSlots (Vector.replicate Config.maxCpu none)).setCount 0#32)
  /-- NEWFRAME zeroes the totals (R200) -/
  | zeroed (s : State) : Change s (s.setSlots (zeroTotals s.slots))
  /-- the configuration commands on the active instance (R140 to R143) -/
  | mapped (s : State) (a : Slot) (i : Instance) (hi : s.slot a = some i) (buffer : Option HostAddr) (start stop : Addr)
      (kinds : BitVec 3) : Change s (s.setSlot a (some (i.mapRange buffer start stop kinds)))
  | masked (s : State) (a : Slot) (i : Instance) (hi : s.slot a = some i) (mask : Addr) (hm : maskOk mask = true) :
      Change s (s.setSlot a (some { i with mask := mask }))
  | callback (s : State) (a : Slot) (i : Instance) (hi : s.slot a = some i) (j : CbIndex) (handler : Option HandlerId) :
      Change s (s.setSlot a (some { i with cb := i.cb.set j.val handler j.isLt }))
  | remapped (s : State) (a : Slot) (i : Instance) (hi : s.slot a = some i) (index value : Byte) :
      Change s (s.setSlot a (some { i with remap := i.remap.put index value }))
  /-- the snapshot driver's values of a write-in (R215) -/
  | restored (s : State) (a : Slot) (i : Instance) (hi : s.slot a = some i) (d : SnapScript) :
      Change s (s.setSlot a (some (i.restore d)))

/-- A chain of changes. -/
inductive Reaches : State → State → Prop
  | refl (s : State) : Reaches s s
  | tail {s t u : State} : Reaches s t → Change t u → Reaches s u

namespace Reaches

theorem trans {s t u : State} (h : Reaches s t) (g : Reaches t u) : Reaches s u := by
  induction g with
  | refl => exact h
  | tail _ c ih => exact ih.tail c

theorem one {s t : State} (h : Change s t) : Reaches s t := (Reaches.refl s).tail h

/-- An invariant of every change holds at the end of a chain that begins in it. -/
theorem keeps {P : State → Prop} (hP : ∀ s t, P s → Change s t → P t) {s t : State} (h : Reaches s t) (hs : P s) : P t := by
  induction h with
  | refl => exact hs
  | tail _ c ih => exact hP _ _ ih c

end Reaches

/-- Nested commands served so that each next state is reached by a chain. -/
def Chained (nest : Nest) : Prop := ∀ cw s t, nest cw s = .next t → Reaches s t

/-- The rest of a command, from any state it can be entered in. -/
def ChainedK (k : State → Out) : Prop := ∀ s t, k s = .next t → Reaches s t

theorem finish_chain {s t : State} {r : Result} (h : finish s r = .next t) : Reaches s t := by
  rw [finish_eq_next] at h; subst h; exact .one (.setRes s r)

theorem violation_chain {s t : State} {v : Violation} (h : violation s v = .next t) : Reaches s t := by
  rw [violation_eq_next] at h; subst h; exact .one (.violate s v)

theorem handlerActs_chain {nest : Nest} (hn : Chained nest) (acts : List HandlerAct) :
    ChainedK (handlerActs nest acts) := by
  induction acts with
  | nil => intro s t h; cases h; exact .refl s
  | cons act rest ih =>
    intro s t h
    cases act with
    | command cw =>
      obtain ⟨u, hu, ht⟩ := andThen_eq_next.1 h
      exact (hn cw s u hu).trans (ih u t ht)
    | hostWrite a v => exact (Reaches.one (.poke s a v)).trans (ih _ t h)

theorem snapCommands_chain {nest : Nest} (hn : Chained nest) (cws : List CommandWord) :
    ChainedK (snapCommands nest cws) := by
  induction cws with
  | nil => intro s t h; cases h; exact .refl s
  | cons cw rest ih =>
    intro s t h
    obtain ⟨u, hu, ht⟩ := andThen_eq_next.1 h
    exact (hn cw s u hu).trans (ih u t ht)

theorem callHandler_chain {nest : Nest} (hn : Chained nest) {id : HandlerId} {sel : CbIndex} {a : Addr}
    {d : Option Byte} {k : Byte → State → Out} (hk : ∀ v, ChainedK (k v)) :
    ChainedK fun s => callHandler nest id sel a d s k := by
  intro s t h
  obtain ⟨u, hu, h⟩ := callHandler_eq_next.1 h
  have h1 := ((Reaches.one (.handler s id sel a)).tail (.log _ (.cb id sel a d))).trans
    (handlerActs_chain hn _ _ _ hu)
  rcases h with ⟨-, h⟩ | ⟨-, h⟩
  · exact h1.trans (hk _ _ _ h)
  · exact h1.trans (violation_chain (v := .activeChanged) (by simp [h]))

theorem commonChecks_chain {k : State → Slot → Out} (hk : ∀ s t a, k s a = .next t → Reaches s t) :
    ChainedK fun s => commonChecks s (k s) := by
  intro s t h
  rcases commonChecks_eq_next.1 h with ⟨-, h⟩ | ⟨-, -, h⟩ | ⟨-, a, -, h⟩
  · subst h; exact .one (.violate s _)
  · subst h; exact .one (.violate s _)
  · exact hk _ _ _ h

theorem checkInit_chain {k : State → Out} (hk : ChainedK k) : ChainedK fun s => checkInit s (k s) := by
  intro s t h
  rcases checkInit_eq_next.1 h with ⟨-, h⟩ | ⟨-, h⟩
  · subst h; exact .one (.violate s _)
  · exact hk _ _ h

theorem pagedRead_chain {nest : Nest} (hn : Chained nest) {table : Instance → PageTable} {sel : CbIndex} {addr : Addr}
    {k : Byte → State → Out} (hk : ∀ v, ChainedK (k v)) :
    ChainedK fun s => pagedRead nest table sel addr s k := by
  intro s t h
  obtain ⟨a, i, -, -, h⟩ := withActive_eq_next.1 h
  split at h
  · next hh _ => exact (Reaches.one (.log s (.hread hh (s.hostByte hh)))).trans (hk _ _ _ h)
  · split at h
    · exact callHandler_chain hn hk _ _ h
    · exact hk _ _ _ h

theorem readByteBy_chain {nest : Nest} (hn : Chained nest) (addr : Addr) : ChainedK (readByteBy nest addr) :=
  commonChecks_chain fun _ _ _ h => pagedRead_chain hn (fun _ _ _ => finish_chain) _ _ h

theorem readArgBy_chain {nest : Nest} (hn : Chained nest) (addr : Addr) : ChainedK (readArgBy nest addr) :=
  commonChecks_chain fun _ _ _ h => pagedRead_chain hn (fun _ _ _ => finish_chain) _ _ h

theorem readOpBy_chain {nest : Nest} (hn : Chained nest) (addr : Addr) : ChainedK (readOpBy nest addr) :=
  commonChecks_chain fun _ _ _ h => pagedRead_chain hn (fun _ _ _ h => by
    obtain ⟨_, _, -, -, h⟩ := withActive_eq_next.1 h
    exact finish_chain h) _ _ h

theorem hwrite_chain (s : State) (h : HostAddr) (v : Byte) : Reaches s (s.hwrite h v) :=
  (Reaches.one (.poke s h v)).tail (.log _ _)

theorem writeMapped_chain (o : Option HostAddr) (v : Byte) (s : State) : Reaches s (writeMapped o v s) := by
  cases o with
  | none => exact .refl s
  | some h => exact hwrite_chain s h v

theorem writeViews_chain (i : Instance) (addr : Addr) (v : Byte) (s : State) : Reaches s (writeViews i addr v s) :=
  ((writeMapped_chain _ v s).trans (writeMapped_chain _ v _)).trans (writeMapped_chain _ v _)

theorem writeByteBy_chain {nest : Nest} (hn : Chained nest) (addr : Addr) (data : Byte) :
    ChainedK (writeByteBy nest addr data) := by
  refine commonChecks_chain fun s t _ h => ?_
  obtain ⟨a, i, -, -, h⟩ := withActive_eq_next.1 h
  split at h
  · exact (hwrite_chain s _ data).trans (finish_chain h)
  · split at h
    · exact callHandler_chain hn (fun _ _ _ => finish_chain) _ _ h
    · exact finish_chain h

theorem readPortBy_chain {nest : Nest} (hn : Chained nest) (addr : Addr) : ChainedK (readPortBy nest addr) := by
  refine commonChecks_chain fun s t _ h => ?_
  obtain ⟨a, i, -, -, h⟩ := withActive_eq_next.1 h
  split at h
  · exact callHandler_chain hn (fun _ _ _ => finish_chain) _ _ h
  · exact finish_chain h

theorem writePortBy_chain {nest : Nest} (hn : Chained nest) (addr : Addr) (data : Byte) :
    ChainedK (writePortBy nest addr data) := by
  refine commonChecks_chain fun s t _ h => ?_
  obtain ⟨a, i, -, -, h⟩ := withActive_eq_next.1 h
  split at h
  · exact callHandler_chain hn (fun _ _ _ => finish_chain) _ _ h
  · exact finish_chain h

theorem writeRomBy_chain {nest : Nest} (hn : Chained nest) (addr : Addr) (data : Byte) :
    ChainedK (writeRomBy nest addr data) := by
  refine commonChecks_chain fun s t _ h => ?_
  obtain ⟨a, i, -, -, h⟩ := withActive_eq_next.1 h
  split at h
  · exact (writeViews_chain i addr data s).trans (callHandler_chain hn (fun _ _ _ => finish_chain) _ _ h)
  · exact (writeViews_chain i addr data s).trans (finish_chain h)

theorem busCommand_chain {nest : Nest} (hn : Chained nest) (kind : BitVec 3) (addr : Addr) (wdata : Byte) :
    ChainedK (busCommand nest kind addr wdata) := by
  intro s t h
  unfold busCommand at h
  split at h
  · exact readByteBy_chain hn _ _ _ h
  · exact writeByteBy_chain hn _ _ _ _ h
  · exact readOpBy_chain hn _ _ _ h
  · exact readArgBy_chain hn _ _ _ h
  · exact readPortBy_chain hn _ _ _ h
  · exact writePortBy_chain hn _ _ _ _ h
  · exact violation_chain h

theorem busAccess_chain {nest : Nest} (hn : Chained nest) (kind : BitVec 3) (addr : Addr) (wdata : Byte) :
    ChainedK (busAccess nest kind addr wdata) := by
  intro s t h
  obtain ⟨u, hu, h⟩ := andThen_eq_next.1 h
  cases h
  exact (busCommand_chain hn _ _ _ _ _ hu).tail (.log _ _)

theorem engineActs_chain {nest : Nest} (hn : Chained nest) (acts : List EngineAct) : ChainedK (engineActs nest acts) := by
  induction acts with
  | nil => intro s t h; cases h; exact .refl s
  | cons act rest ih =>
    intro s t h
    cases act with
    | setContext c => exact (Reaches.one (.context s c)).trans (ih _ t h)
    | access kind addr wdata =>
      obtain ⟨u, hu, ht⟩ := andThen_eq_next.1 h
      exact (busAccess_chain hn _ _ _ _ _ hu).trans (ih u t ht)

theorem invoke_chain {nest : Nest} (hn : Chained nest) (call : EngineCall) {k : Cycles → State → Out}
    (hk : ∀ c, ChainedK (k c)) : ChainedK fun s => invoke nest call s k := by
  intro s t h
  obtain ⟨a, i, c, u, -, -, -, hu, h⟩ := invoke_eq_next.1 h
  exact (((Reaches.one (.engine s _ call c)).tail (.log _ _)).trans (engineActs_chain hn _ _ _ hu)).trans (hk _ _ _ h)

theorem invokeVoid_chain {nest : Nest} (hn : Chained nest) (call : EngineCall) {k : State → Out} (hk : ChainedK k) :
    ChainedK fun s => invokeVoid nest call s k :=
  invoke_chain hn call fun _ => hk

theorem doOpen_chain {a : Slot} {k : State → Out} (hk : ChainedK k) : ChainedK fun s => doOpen s a k := by
  intro s t h
  obtain ⟨i, hi, h⟩ := doOpen_eq_next.1 h
  exact (Reaches.one (.opened s a i hi)).trans (hk _ _ h)

theorem doClose_chain {k : State → Out} (hk : ChainedK k) : ChainedK fun s => doClose s k := by
  intro s t h
  obtain ⟨a, i, c, -, hi, hc, h⟩ := doClose_eq_next.1 h
  exact (Reaches.one (.closed s a i c hi hc)).trans (hk _ _ h)

theorem createBy_chain {nest : Nest} (hn : Chained nest) (b v : BitVec 8) : ChainedK (createBy nest b v) := by
  intro s t h
  unfold createBy at h
  split at h
  · exact violation_chain h
  · split at h
    · exact violation_chain h
    · next hact =>
      split at h
      · exact violation_chain h
      · refine (Reaches.one (.filled s _ _ (not_ne_iff.1 hact))).trans
          (doOpen_chain (invokeVoid_chain hn _ fun u w h => ?_) _ _ h)
        obtain ⟨i, hi, h⟩ := withInstance_eq_next.1 h
        obtain ⟨c, hc, h⟩ := withContext_eq_next.1 h
        exact (Reaches.one (.closed u _ i c hi hc)).trans (finish_chain h)

theorem execDestroy_chain : ChainedK execDestroy := by
  intro s t h
  unfold execDestroy at h
  split at h
  · exact violation_chain h
  · next hact => exact (Reaches.one (.destroyed s (not_ne_iff.1 hact))).trans (finish_chain h)

theorem checkLive_chain {s t : State} {b : BitVec 8} {k : Slot → Instance → Out}
    (hk : ∀ a i, s.slot a = some i → k a i = .next t → Reaches s t) (h : checkLive s b k = .next t) : Reaches s t := by
  rcases checkLive_eq_next.1 h with ⟨-, h⟩ | ⟨a, i, -, hi, h⟩
  · subst h; exact .one (.violate s _)
  · exact hk a i hi h

theorem execOpen_chain (b : BitVec 8) : ChainedK (execOpen b) := by
  refine checkInit_chain fun s t h => checkLive_chain (fun a i _ h => ?_) h
  split at h
  · exact violation_chain h
  · exact doOpen_chain (fun _ _ => finish_chain) _ _ h

theorem execClose_chain : ChainedK execClose :=
  commonChecks_chain fun _ _ _ h => doClose_chain (fun _ _ => finish_chain) _ _ h

theorem configure_chain {s t : State} {f : Instance → Instance}
    (hf : ∀ a i, s.slot a = some i → Change s (s.setSlot a (some (f i)))) (h : configure s f = .next t) :
    Reaches s t := by
  obtain ⟨a, i, -, hi, h⟩ := withActive_eq_next.1 h
  exact (Reaches.one (hf a i hi)).trans (finish_chain h)

theorem execMapRange_chain (buffer : Option HostAddr) (start stop : Addr) (kinds : BitVec 3) :
    ChainedK (execMapRange buffer start stop kinds) :=
  commonChecks_chain fun s _ _ h => configure_chain (fun a i hi => .mapped s a i hi _ _ _ _) h

theorem execSetMask_chain (mask : Addr) : ChainedK (execSetMask mask) := by
  refine commonChecks_chain fun s t _ h => ?_
  split at h
  · next hm => exact configure_chain (fun a i hi => .masked s a i hi mask hm) h
  · exact violation_chain h

theorem execSetCb_chain (sel : BitVec 3) (handler : Option HandlerId) : ChainedK (execSetCb sel handler) := by
  intro s t h
  unfold execSetCb at h
  split at h
  · exact violation_chain h
  · exact commonChecks_chain (k := fun s _ => configure s _)
      (fun s _ _ h => configure_chain (fun a i hi => .callback s a i hi _ handler) h) s t h

theorem execSetRemap_chain (index value : Byte) : ChainedK (execSetRemap index value) :=
  commonChecks_chain fun s _ _ h => configure_chain (fun a i hi => .remapped s a i hi index value) h

theorem execGetPc_chain : ChainedK execGetPc := by
  refine commonChecks_chain fun s t a h => ?_
  obtain ⟨c, -, h⟩ := withContext_eq_next.1 h
  exact (Reaches.one (.log s _)).trans (finish_chain h)

theorem execGetPpc_chain : ChainedK execGetPpc := by
  refine commonChecks_chain fun s t a h => ?_
  obtain ⟨c, -, h⟩ := withContext_eq_next.1 h
  exact (Reaches.one (.log s _)).trans (finish_chain h)

theorem cpuResetBy_chain {nest : Nest} (hn : Chained nest) : ChainedK (cpuResetBy nest) :=
  commonChecks_chain fun _ _ _ h => invokeVoid_chain hn _ (fun _ _ => finish_chain) _ _ h

theorem setLine_chain {nest : Nest} (hn : Chained nest) {line : BitVec 8} {level : Bool} {k : State → Out}
    (hk : ChainedK k) : ChainedK fun s => setLine nest line level s k :=
  invokeVoid_chain hn _ hk

theorem applyIrq_chain {nest : Nest} (hn : Chained nest) {line : BitVec 8} {status : IrqStatus} {k : State → Out}
    (hk : ChainedK k) : ChainedK fun s => applyIrq nest line status s k := by
  intro s t h
  unfold applyIrq at h
  split at h
  · exact setLine_chain hn hk s t h
  · exact setLine_chain hn hk s t h
  · split at h
    · exact setLine_chain hn (setLine_chain hn hk) s t h
    · exact setLine_chain hn (invokeVoid_chain hn _ (setLine_chain hn (invokeVoid_chain hn _ hk))) s t h
  · exact invokeVoid_chain hn _ (setLine_chain hn hk) s t h

theorem setIrqBy_chain {nest : Nest} (hn : Chained nest) (line : BitVec 8) (status : IrqStatus) :
    ChainedK (setIrqBy nest line status) :=
  commonChecks_chain fun _ _ _ h => applyIrq_chain hn (fun _ _ => finish_chain) _ _ h

theorem bracketed_chain {nest : Nest} (hn : Chained nest) (target : Slot) (line : BitVec 8) (status : IrqStatus) :
    ChainedK (bracketed nest target line status) := by
  intro s t h
  unfold bracketed at h
  split at h
  · exact doOpen_chain (applyIrq_chain hn (doClose_chain fun _ _ => finish_chain)) s t h
  · exact doClose_chain (doOpen_chain (applyIrq_chain hn (doClose_chain (doOpen_chain fun _ _ => finish_chain)))) s t h

theorem setIrqxBy_chain {nest : Nest} (hn : Chained nest) (b line : BitVec 8) (status : IrqStatus) :
    ChainedK (setIrqxBy nest b line status) := by
  refine checkInit_chain fun s t h => checkLive_chain (fun a i _ h => ?_) h
  split at h
  · exact applyIrq_chain hn (fun _ _ => finish_chain) _ _ h
  · exact bracketed_chain hn _ _ _ _ _ h

theorem execNewFrame_chain : ChainedK execNewFrame :=
  checkInit_chain fun s _ h => ((Reaches.one (.zeroed s)).tail (.cur _ _)).trans (finish_chain h)

theorem runBy_chain {nest : Nest} (hn : Chained nest) (n : Cycles) : ChainedK (runBy nest n) :=
  commonChecks_chain fun _ _ _ h =>
    invoke_chain hn _ (fun _ u _ h => (Reaches.one (.cur u _)).trans (finish_chain h)) _ _ h

theorem execIdle_chain (n : Cycles) : ChainedK (execIdle n) :=
  commonChecks_chain fun s _ _ h => (Reaches.one (.cur s _)).trans (finish_chain h)

theorem execGetSaved_chain (b : BitVec 8) : ChainedK (execGetSaved b) :=
  checkInit_chain fun _ _ h => checkLive_chain (fun _ _ _ => finish_chain) h

theorem scanRecord_chain {nest : Nest} (hn : Chained nest) {write : Bool} {a : Slot} {i : Instance}
    {k : State → Out} (hk : ChainedK k) : ChainedK fun s => scanRecord nest write a i s k := by
  intro s t h
  obtain ⟨u, hu, h⟩ := andThen_eq_next.1 h
  have h1 := ((Reaches.one (.snap s a)).tail (.log _ _)).trans (snapCommands_chain hn _ _ _ hu)
  split at h
  · obtain ⟨j, hj, h⟩ := withInstance_eq_next.1 h
    exact (h1.tail (.restored u a j hj _)).trans (hk _ _ h)
  · exact h1.trans (hk _ _ h)

theorem scanSlots_chain {nest : Nest} (hn : Chained nest) (write : Bool) (slots : List Slot) :
    ChainedK (scanSlots nest write slots) := by
  induction slots with
  | nil => exact fun _ _ => finish_chain
  | cons a rest ih =>
    intro s t h
    unfold scanSlots at h
    split at h
    · exact ih _ _ h
    · exact scanRecord_chain hn ih _ _ h

theorem scanBy_chain {nest : Nest} (hn : Chained nest) (driver write : Bool) : ChainedK (scanBy nest driver write) := by
  refine checkInit_chain fun s t h => ?_
  split at h
  · exact scanSlots_chain hn _ _ _ _ h
  · exact finish_chain h

/-- A nested command's next state is reached by a chain. -/
theorem nestedCommand_chain {nest : Nest} (hn : Chained nest) (i : Instr) : ChainedK (nestedCommand nest i) := by
  intro s t h
  cases i with
  | create b v => exact createBy_chain hn b v s t h
  | destroy => exact execDestroy_chain s t h
  | openSlot b => exact execOpen_chain b s t h
  | close => exact execClose_chain s t h
  | getActive => exact checkInit_chain (k := fun s => finish s _) (fun _ _ => finish_chain) s t h
  | getPc => exact execGetPc_chain s t h
  | getPpc => exact execGetPpc_chain s t h
  | cpuReset => exact cpuResetBy_chain hn s t h
  | mapRange buffer start stop kinds => exact execMapRange_chain buffer start stop kinds s t h
  | setMask mask => exact execSetMask_chain mask s t h
  | setCb sel handler => exact execSetCb_chain sel handler s t h
  | setRemap index value => exact execSetRemap_chain index value s t h
  | readByte addr => exact readByteBy_chain hn addr s t h
  | writeByte addr data => exact writeByteBy_chain hn addr data s t h
  | readOp addr => exact readOpBy_chain hn addr s t h
  | readArg addr => exact readArgBy_chain hn addr s t h
  | readPort addr => exact readPortBy_chain hn addr s t h
  | writePort addr data => exact writePortBy_chain hn addr data s t h
  | writeRom addr data => exact writeRomBy_chain hn addr data s t h
  | setIrq line status => exact setIrqBy_chain hn line status s t h
  | setIrqx b line status => exact setIrqxBy_chain hn b line status s t h
  | newFrame => exact execNewFrame_chain s t h
  | run n =>
    simp only [nestedCommand, nestedRun] at h
    split at h
    · exact runBy_chain hn n s t h
    · cases h
  | idle n => exact execIdle_chain n s t h
  | getCur => exact checkInit_chain (k := fun s => finish s s.cur) (fun _ _ => finish_chain) s t h
  | getSaved b => exact execGetSaved_chain b s t h
  | scan driver write => exact scanBy_chain hn driver write s t h

/-- A command's effect at top level is the nested one, but for the parameter on nested RUN. -/
theorem exec_eq_nestedCommand (i : Instr) (s : State) : exec i s = nestedCommand s.nest i s := by
  cases i <;> rfl

theorem nestedWord_chain {nest : Nest} (hn : Chained nest) (cw : CommandWord) : ChainedK (nestedWord nest cw) := by
  intro s t h
  obtain ⟨u, hu, h⟩ := andThen_eq_next.1 h
  rw [answer_eq_next] at h
  subst h
  split at hu
  · exact (nestedCommand_chain hn _ s u hu).tail (.log _ _)
  · exact (violation_chain hu).tail (.log _ _)

/-- Nested commands are chained at every depth. -/
theorem serveNested_chain (d : Nat) : Chained (serveNested d) := by
  induction d with
  | zero => intro cw s t h; cases h
  | succ d ih => exact fun cw s t h => nestedWord_chain ih cw s t h

/-- The next state of every command is reached by a chain of changes. -/
theorem exec_chain {i : Instr} {s t : State} (h : exec i s = .next t) : Reaches s t := by
  rw [exec_eq_nestedCommand] at h
  exact nestedCommand_chain (serveNested_chain _) i s t h

theorem runWord_chain {cw : CommandWord} {s t : State} (h : runWord cw s = .next t) : Reaches s t := by
  obtain ⟨u, rfl, ⟨i, -, hu⟩ | ⟨e, -, rfl⟩⟩ := runWord_eq_next.1 h
  · exact (exec_chain hu).tail (.log _ _)
  · exact (Reaches.one (.violate s _)).tail (.log _ _)

/-- An invariant that every change, the HOST's inputs and the hardware reset keep is kept by every step. -/
theorem step_keeps {P : State → Prop} (hP : ∀ s t, P s → Change s t → P t)
    (hIn : ∀ s rest, P s → P (s.setHostIn rest)) (hReset : ∀ s, P s → P s.hardwareReset) {s t : State}
    (h : step s = .next t) (hs : P s) : P t := by
  rcases step_eq_next.1 h with ⟨-, rfl⟩ | ⟨cw, rest, -, h⟩ | ⟨a, v, rest, -, rfl⟩ | ⟨rest, -, rfl⟩
  · exact hs
  · exact (runWord_chain h).keeps hP (hIn s rest hs)
  · exact hP _ _ (hIn s rest hs) (.poke _ a v)
  · exact hReset _ (hIn s rest hs)

end Sys2Proof.Machine
end

