-- ==== Sys2Proof/Laws/Encoding.lean ====
section
/-! SUPPORT. The fields of a command word: splitting undoes packing and packing undoes splitting (spec/30_encoding.md
R70). -/

namespace Sys2Proof

/-- The fields packed into a word are read back at their positions. -/
theorem split_pack (f : Fields) : splitFields (packFields f) = f := by
  obtain ⟨op, s, x, y, a, b, w⟩ := f
  simp only [splitFields, packFields, Fields.mk.injEq]
  refine ⟨?_, ?_, ?_, ?_, ?_, ?_, ?_⟩ <;> (ext k hk; grind)

/-- A word is the packing of its fields. -/
theorem pack_split (cw : CommandWord) : packFields (splitFields cw) = cw := by
  simp only [splitFields, packFields]
  ext k hk
  grind

/-- The decoder on packed fields. -/
theorem decode_pack (f : Fields) : decode (packFields f) = decodeFields f := by rw [decode, split_pack]

end Sys2Proof
end

