-- ==== Sys2Proof/Laws/PerInstr.lean ====
section
/-! SUPPORT. Statements made per instruction. The family FieldLayout: in the encoded word every operand stands in the
field that spec/30_encoding.md R70 and R71 give it, and nothing else stands anywhere. -/

namespace Sys2Proof.Laws.FieldLayout

/-- Splitting the word of `i` gives exactly the fields of `i`. -/
def Statement (i : Instr) : Prop := splitFields (encode i) = encodeFields i

theorem create (s v : BitVec 8) : Statement (.create s v) := split_pack _
theorem destroy : Statement .destroy := split_pack _
theorem openSlot (s : BitVec 8) : Statement (.openSlot s) := split_pack _
theorem close : Statement .close := split_pack _
theorem getActive : Statement .getActive := split_pack _
theorem getPc : Statement .getPc := split_pack _
theorem getPpc : Statement .getPpc := split_pack _
theorem cpuReset : Statement .cpuReset := split_pack _
theorem mapRange (buffer : Option HostAddr) (start stop : Addr) (kinds : BitVec 3) :
    Statement (.mapRange buffer start stop kinds) := split_pack _
theorem setMask (mask : Addr) : Statement (.setMask mask) := split_pack _
theorem setCb (sel : BitVec 3) (handler : Option HandlerId) : Statement (.setCb sel handler) := split_pack _
theorem setRemap (index value : Byte) : Statement (.setRemap index value) := split_pack _
theorem readByte (addr : Addr) : Statement (.readByte addr) := split_pack _
theorem writeByte (addr : Addr) (data : Byte) : Statement (.writeByte addr data) := split_pack _
theorem readOp (addr : Addr) : Statement (.readOp addr) := split_pack _
theorem readArg (addr : Addr) : Statement (.readArg addr) := split_pack _
theorem readPort (addr : Addr) : Statement (.readPort addr) := split_pack _
theorem writePort (addr : Addr) (data : Byte) : Statement (.writePort addr data) := split_pack _
theorem writeRom (addr : Addr) (data : Byte) : Statement (.writeRom addr data) := split_pack _
theorem setIrq (line : BitVec 8) (status : IrqStatus) : Statement (.setIrq line status) := split_pack _
theorem setIrqx (s line : BitVec 8) (status : IrqStatus) : Statement (.setIrqx s line status) := split_pack _
theorem newFrame : Statement .newFrame := split_pack _
theorem run (n : Cycles) : Statement (.run n) := split_pack _
theorem idle (n : Cycles) : Statement (.idle n) := split_pack _
theorem getCur : Statement .getCur := split_pack _
theorem getSaved (s : BitVec 8) : Statement (.getSaved s) := split_pack _
theorem scan (driver write : Bool) : Statement (.scan driver write) := split_pack _

end Sys2Proof.Laws.FieldLayout
end

