-- ==== Sys2Proof/Tests/Slice0.lean ====
section
/-! SUPPORT. The model's own tests. Words and results come from spec/95_test_vectors.md, spec/96_test_vectors_continued.md
and the examples of the command rules, named in each comment; a witness shows a state and operands that meet the
hypotheses of an obligation. -/

-- The kernel evaluates these tests one after another: a hundred at once would each take a thread of their own.
set_option Elab.async false

namespace Sys2Proof.Tests
open Sys2Proof.Machine

/-! ## WellFormed: the check of the selector refuses an ill-formed term (R76, R82) -/

theorem test_wellFormed_selector6 : (Instr.setCb 6#3 (some 0x7001#64)).wellFormed = false := by decide
theorem test_wellFormed_selector7 : (Instr.setCb 7#3 none).wellFormed = false := by decide
theorem test_wellFormed_selector5 : (Instr.setCb 5#3 none).wellFormed = true := by decide

/-! ## Decoding: words of spec/95 section 2.1, one or more for every constructor -/

theorem test_decode_registry :
    decode 0x01020300000000000000000000000000#128 = .ok (.create 2#8 3#8) ∧
      decode 0x02000000000000000000000000000000#128 = .ok .destroy ∧
      decode 0x03070000000000000000000000000000#128 = .ok (.openSlot 7#8) ∧
      decode 0x04000000000000000000000000000000#128 = .ok .close ∧
      decode 0x05000000000000000000000000000000#128 = .ok .getActive := by decide +kernel

theorem test_decode_dispatch :
    decode 0x08000000000000000000000000000000#128 = .ok .getPc ∧
      decode 0x09000000000000000000000000000000#128 = .ok .getPpc ∧
      decode 0x0A000000000000000000000000000000#128 = .ok .cpuReset := by decide +kernel

theorem test_decode_pagemap :
    decode 0x100005008000BFFF0000000012340000#128 = .ok (.mapRange (some 0x12340000#64) 0x8000#16 0xBFFF#16 5#3) ∧
      decode 0x100007010000FFFF0000000000000000#128 = .ok (.mapRange none 0x0000#16 0xFFFF#16 7#3) ∧
      decode 0x110000007FFF00000000000000000000#128 = .ok (.setMask 0x7FFF#16) ∧
      decode 0x12000300000000000000000000007001#128 = .ok (.setCb 3#3 (some 0x7001#64)) ∧
      decode 0x12000001000000000000000000000000#128 = .ok (.setCb 0#3 none) ∧
      decode 0x12000500000000000000000000000000#128 = .ok (.setCb 5#3 (some 0#64)) ∧
      decode 0x1300A94C000000000000000000000000#128 = .ok (.setRemap 0xA9#8 0x4C#8) := by decide +kernel

theorem test_decode_access :
    decode 0x18000000203400000000000000000000#128 = .ok (.readByte 0x2034#16) ∧
      decode 0x1900005A001000000000000000000000#128 = .ok (.writeByte 0x0010#16 0x5A#8) ∧
      decode 0x1A000000C00000000000000000000000#128 = .ok (.readOp 0xC000#16) ∧
      decode 0x1B000000C00100000000000000000000#128 = .ok (.readArg 0xC001#16) ∧
      decode 0x1C000000000100000000000000000000#128 = .ok (.readPort 0x0001#16) ∧
      decode 0x1D000080000300000000000000000000#128 = .ok (.writePort 0x0003#16 0x80#8) ∧
      decode 0x1E0000EA800500000000000000000000#128 = .ok (.writeRom 0x8005#16 0xEA#8) := by decide +kernel

theorem test_decode_interrupts :
    decode 0x20002002000000000000000000000000#128 = .ok (.setIrq 0x20#8 .auto) ∧
      decode 0x2000FF03000000000000000000000000#128 = .ok (.setIrq 0xFF#8 .hold) ∧
      decode 0x21010003000000000000000000000000#128 = .ok (.setIrqx 1#8 0#8 .hold) ∧
      decode 0x21072001000000000000000000000000#128 = .ok (.setIrqx 7#8 0x20#8 .ack) := by decide +kernel

/-- The fields of these words are those of R71 and R72. -/
theorem test_decode_cycles_and_snapshot :
    decode 0x28000000000000000000000000000000#128 = .ok .newFrame ∧
      decode 0x290000000000000000000000FFFFFFFF#128 = .ok (.run 0xFFFFFFFF#32) ∧
      decode 0x2A00000000000000000000000000000D#128 = .ok (.idle 13#32) ∧
      decode 0x2B000000000000000000000000000000#128 = .ok .getCur ∧
      decode 0x2C030000000000000000000000000000#128 = .ok (.getSaved 3#8) ∧
      decode 0x30000100000000000000000000000000#128 = .ok (.scan true false) ∧
      decode 0x30000200000000000000000000000000#128 = .ok (.scan false true) := by decide +kernel

/-- The illegal words of spec/96 section 1, with the reason R82 or R83 gives. -/
theorem test_decode_illegal :
    decode 0x00000000000000000000000000000000#128 = .rejected .unknownOpcode ∧
      decode 0x2D000000000000000000000000000000#128 = .rejected .unknownOpcode ∧
      decode 0xFF000000000000000000000000000000#128 = .rejected .unknownOpcode ∧
      decode 0x02000000000000000000000000000001#128 = .rejected .mustBeZero ∧
      decode 0x01000001000000000000000000000000#128 = .rejected .mustBeZero ∧
      decode 0x12000600000000000000000000007001#128 = .rejected .badSelector ∧
      decode 0x12000800000000000000000000007001#128 = .rejected .mustBeZero ∧
      decode 0x12000201000000000000000000007001#128 = .rejected .nullWithPointer ∧
      decode 0x10000101000000FF0000000000001000#128 = .rejected .nullWithPointer ∧
      decode 0x20000004000000000000000000000000#128 = .rejected .mustBeZero ∧
      decode 0x29000000000000000000000100000000#128 = .rejected .mustBeZero ∧
      decode 0x30000400000000000000000000000000#128 = .rejected .mustBeZero := by decide +kernel

/-- The encoder writes the same words (spec/95 section 2.1). -/
theorem test_encode :
    encode (.create 2#8 3#8) = 0x01020300000000000000000000000000#128 ∧
      encode (.mapRange (some 0x12340000#64) 0x8000#16 0xBFFF#16 5#3) = 0x100005008000BFFF0000000012340000#128 ∧
      encode (.setIrqx 7#8 0x20#8 .ack) = 0x21072001000000000000000000000000#128 := by decide +kernel

/-! ## Small states -/

/-- An instance without handlers: RD[0x20] = WR[0x20] = 0x5000, WR[0x00] = 0x9000, RD[0x80] = FE[0x80] = 0x1000,
WR[0xC0] = FE[0xC0] = 0x4000. -/
def inst : Instance :=
  { Instance.fresh ⟨0, by decide⟩ with
    rb := ⟨7⟩
    mask := 0xFFFF#16
    rd := ((Vector.replicate 256 none).set 0x20 (some 0x5000#64)).set 0x80 (some 0x1000#64)
    wr := (((Vector.replicate 256 none).set 0x20 (some 0x5000#64)).set 0x00 (some 0x9000#64)).set 0xC0 (some 0x4000#64)
    fe := ((Vector.replicate 256 none).set 0x80 (some 0x1000#64)).set 0xC0 (some 0x4000#64)
    total := 1000#32
    segment := 3#32 }

/-- The same with a handler in every callback slot. -/
def instCb : Instance := { inst with rb := ⟨8⟩, cb := Vector.replicate 6 (some 0x7001#64) }

/-- Slots 2 and 5 live, none active. -/
def closedState : State :=
  { State.reset with
    count := 2#32
    slots := ((Vector.replicate 8 none).set 2 (some inst)).set 5 (some instCb)
    env := { Env.initial with mem := [(0x4000, 0x20#8), (0x5034, 0xAB#8)] } }

/-- Slot 2 active, CUR = 100. -/
def ready : State := { closedState with active := some 2, wctx := .live ⟨9⟩, cur := 100#32 }

/-- Slot 5 active, with a handler that answers 0x12 and changes host byte 0x6000. -/
def readyCb : State :=
  { closedState with
    active := some 5
    wctx := .live ⟨9⟩
    env := { closedState.env with handlerIn := [{ acts := [.hostWrite 0x6000#64 0x77#8], answer := 0x12#8 }] } }

/-- `ready` with four engine scripts: each reads one byte, sets the context, and counts 7 cycles. -/
def readyEngine : State :=
  { ready with
    env := { ready.env with
      engineIn := List.replicate 4 { acts := [.access 0#3 0x2034#16 0#8, .setContext ⟨11⟩], consumed := 7#32 } } }

/-- `readyEngine` without the bus accesses. -/
def readyQuiet : State :=
  { ready with
    env := { ready.env with engineIn := List.replicate 4 { acts := [.setContext ⟨11⟩], consumed := 7#32 } } }

/-- Slot 5 active, with a handler that closes it and opens slot 2. -/
def readySwap : State :=
  { readyCb with
    env := { closedState.env with
      handlerIn := [{ acts := [.command (encode .close), .command (encode (.openSlot 2#8))], answer := 0x12#8 }] } }

/-- `closedState` with snapshot records for its two live slots. -/
def scanState : State :=
  { closedState with
    env := { closedState.env with
      snapIn := [{ commands := [], rb := ⟨21⟩, total := 5#32, segment := 6#32 },
        { commands := [], rb := ⟨22⟩, total := 7#32, segment := 8#32 }] } }

/-- A next state of which `p` holds. -/
def after (o : Out) (p : State → Bool) : Bool :=
  match o with
  | .next t => p t
  | .fault _ => false
  | .refused _ => false

/-! ## One command on a small state -/

/-- R100: from reset, CREATE 0, 0 gives COUNT = 1, ACTIVE = -1, REMAP the identity, RES = 0. -/
theorem test_create : after (exec (.create 0#8 0#8) State.reset) (fun t =>
    t.count = 1#32 && t.active = none && t.res = 0#32 && t.viol = none &&
      (t.slot 0).any fun i => i.remap.entry 0xA9#8 = 0xA9#8) = true := by decide +kernel
/-- R100: a slot out of range is BAD_SLOT before anything else. -/
theorem test_create_badSlot : after (exec (.create 8#8 9#8) ready) (fun t =>
    t.viol = some .badSlot && t.res = 0xFFFFFFFF#32 && t.count = 2#32) = true := by decide +kernel
/-- R101: all slots absent, COUNT = 0, CUR kept. -/
theorem test_destroy : after (exec .destroy { closedState with cur := 5#32 }) (fun t =>
    t.slot 2 = none && t.slot 5 = none && t.count = 0#32 && t.cur = 5#32) = true := by decide +kernel
/-- R101: DESTROY with an instance open. -/
theorem test_destroy_active : after (exec .destroy ready) (fun t => t.viol = some .destroyActive) = true := by
  decide +kernel
/-- R102: SLOT[2].TOTAL = 1000 gives CUR = 1000. -/
theorem test_open : after (exec (.openSlot 2#8) closedState) (fun t =>
    t.active = some 2 && t.cur = 1000#32 && t.wctx = .live ⟨7⟩) = true := by decide +kernel
/-- R102: an absent slot. -/
theorem test_open_absent : after (exec (.openSlot 3#8) closedState) (fun t => t.viol = some .badSlot) = true := by
  decide +kernel
/-- R103: ACTIVE = 2, CUR = 1234: TOTAL = 1234, ACTIVE = -1, WCTX POISON. -/
theorem test_close : after (exec .close { ready with cur := 1234#32 }) (fun t =>
    t.active = none && t.wctx = .poison && (t.slot 2).any fun i => i.total = 1234#32 && i.rb = ⟨9⟩) = true := by
  decide +kernel
/-- R103: CLOSE with none open. -/
theorem test_close_none : after (exec .close closedState) (fun t => t.viol = some .noActive) = true := by decide +kernel
/-- R104: -1 reads 0xFFFFFFFF; 5 reads 5. -/
theorem test_getActive : after (exec .getActive closedState) (fun t => t.res = 0xFFFFFFFF#32) = true := by decide +kernel
theorem test_getActive_5 : after (exec .getActive readyCb) (fun t => t.res = 5#32) = true := by decide +kernel
/-- R131, R132: nothing active is NO_ACTIVE; before the first CREATE it is NOINIT. -/
theorem test_getPc : after (exec .getPc closedState) (fun t => t.viol = some .noActive) = true := by decide +kernel
theorem test_getPpc : after (exec .getPpc State.reset) (fun t => t.viol = some .noInit) = true := by decide +kernel
/-- R133: the reset behaviour runs; CUR and ACTIVE stay. -/
theorem test_cpuReset : after (exec .cpuReset readyEngine) (fun t =>
    t.wctx = .live ⟨11⟩ && t.cur = 100#32 && t.active = some 2 && t.res = 0#32) = true := by decide +kernel
/-- R140: RD[0x80] = FE[0x80] = 0x1000, RD[0x81] = FE[0x81] = 0x1100, WR unchanged. -/
theorem test_mapRange : after (exec (.mapRange (some 0x1000#64) 0x8000#16 0x81FF#16 5#3) ready) (fun t =>
    (t.slot 2).any fun i =>
      i.rd.entry 0x80#8 = some 0x1000#64 && i.fe.entry 0x81#8 = some 0x1100#64 && i.wr.entry 0x81#8 = none) = true := by
  decide +kernel
/-- R140 corner (b): an empty range changes nothing. -/
theorem test_mapRange_empty : after (exec (.mapRange none 0x8100#16 0x80FF#16 7#3) ready) (fun t =>
    (t.slot 2).any (fun i => i.rd.entry 0x80#8 = some 0x1000#64 && i.rd.entry 0x81#8 = none) && t.viol = none) = true := by
  decide +kernel
/-- R141: 0x0000 is BAD_MASK; SETMASK 0x1FFF makes 0xE123 translate to 0x0123. -/
theorem test_setMask_zero : after (exec (.setMask 0x0000#16) ready) (fun t => t.viol = some .badMask) = true := by
  decide +kernel
theorem test_setMask : after (exec (.setMask 0x1FFF#16) ready) (fun t =>
    (t.slot 2).any fun i => i.mask = 0x1FFF#16 && 0xE123#16 &&& i.mask = 0x0123#16) = true := by decide +kernel
/-- R142: SETCB RD, 0x7001 gives CB[2]; NULL removes it. -/
theorem test_setCb : after (exec (.setCb 2#3 (some 0x7001#64)) ready) (fun t =>
    (t.slot 2).any fun i => i.cb[2] = some 0x7001#64 && i.cb[3] = none) = true := by decide +kernel
theorem test_setCb_null : after (exec (.setCb 2#3 none) readyCb) (fun t =>
    (t.slot 5).any fun i => i.cb[2] = none) = true := by decide +kernel
/-- R143: SETREMAP 0xA9, 0x4C. -/
theorem test_setRemap : after (exec (.setRemap 0xA9#8 0x4C#8) ready) (fun t =>
    (t.slot 2).any fun i => i.remap.entry 0xA9#8 = 0x4C#8 && i.remap.entry 0xA8#8 = 0xA8#8) = true := by decide +kernel
/-- R144: RD[0x20] = 0x5000, host byte 0x5034 = 0xAB. -/
theorem test_readByte : after (exec (.readByte 0x2034#16) ready) (fun t =>
    t.res = 0xAB#32 && cbCount t.env.ports = 0) = true := by decide +kernel
/-- R144, R151: an unmapped page with a handler. -/
theorem test_readByte_handler : after (exec (.readByte 0x4000#16) readyCb) (fun t =>
    t.res = 0x12#32 && t.env.ports = [.cb 0x7001#64 2 0x4000#16 none] && t.hostByte 0x6000#64 = 0x77#8) = true := by
  decide +kernel
/-- R145: WR[0x00] = 0x9000: host byte 0x9010 = 0x5A. -/
theorem test_writeByte : after (exec (.writeByte 0x0010#16 0x5A#8) ready) (fun t =>
    t.hostByte 0x9010#64 = 0x5A#8 && t.res = 0#32) = true := by decide +kernel
/-- R145 corner (a): a page mapped R|F only keeps its buffer. -/
theorem test_writeByte_rom : after (exec (.writeByte 0x8005#16 0xEA#8) ready) (fun t =>
    t.env.mem = ready.env.mem && t.viol = none) = true := by decide +kernel
/-- R146: the raw byte 0x20 through REMAP. -/
theorem test_readOp : after (execAll [.setRemap 0x20#8 0x40#8, .readOp 0xC000#16] ready) (fun t => t.res = 0x40#32) =
    true := by decide +kernel
/-- R147: the same byte, unremapped. -/
theorem test_readArg : after (execAll [.setRemap 0x20#8 0x40#8, .readArg 0xC000#16] ready) (fun t => t.res = 0x20#32) =
    true := by decide +kernel
/-- R148: CB[0] absent gives 0. -/
theorem test_readPort : after (exec (.readPort 0x0001#16) ready) (fun t => t.res = 0#32) = true := by decide +kernel
/-- R149: one CB transfer with the address as given. -/
theorem test_writePort : after (exec (.writePort 0x0003#16 0x80#8) readyCb) (fun t =>
    t.env.ports = [.cb 0x7001#64 1 0x0003#16 (some 0x80#8)] && t.res = 0#32) = true := by decide +kernel
/-- R150: RD[0x80] = FE[0x80] = 0x1000, WR[0x80] null: host byte 0x1005 is written twice. -/
theorem test_writeRom : after (exec (.writeRom 0x8005#16 0xEA#8) ready) (fun t =>
    t.hostByte 0x1005#64 = 0xEA#8 && hmemCount t.env.ports = 2) = true := by decide +kernel
/-- R180: SETIRQ 0, ACK makes one ECTL call. -/
theorem test_setIrq_ack : after (exec (.setIrq 0#8 .ack) ready) (fun t =>
    t.env.ports = [.ectl 2 .baseline (.setInterruptLine 0#8 true)] && t.cur = 100#32) = true := by decide +kernel
/-- R184: AUTO on a maskable line; the counts of its two executes are not added to CUR. -/
theorem test_setIrq_auto : after (exec (.setIrq 0#8 .auto) readyEngine) (fun t =>
    t.cur = 100#32 && ectlCalls t.env.ports =
      [(2, .setInterruptLine 0#8 true), (2, .execute 0#32), (2, .setInterruptLine 0#8 false), (2, .execute 0#32)]) =
    true := by decide +kernel
/-- R186: the order of the ECTL calls; ACTIVE, WCTX and CUR end as they were. -/
theorem test_setIrqx : after (exec (.setIrqx 5#8 0#8 .ack) ready) (fun t =>
    t.active = some 2 && t.wctx = .live ⟨9⟩ && t.cur = 100#32 && ectlCalls t.env.ports =
      [(2, .saveContext), (5, .loadContext), (5, .setInterruptLine 0#8 true), (5, .saveContext), (2, .loadContext)]) =
    true := by decide +kernel
/-- R186: a bad target leaves the active instance open. -/
theorem test_setIrqx_badSlot : after (exec (.setIrqx 8#8 0#8 .ack) ready) (fun t =>
    t.viol = some .badSlot && t.active = some 2) = true := by decide +kernel
/-- R200: every saved counter and CUR are 0; SEGMENT stays. -/
theorem test_newFrame : after (exec .newFrame ready) (fun t =>
    t.cur = 0#32 && (t.slot 2).any (fun i => i.total = 0#32 && i.segment = 3#32) && (t.slot 5).any fun i =>
      i.total = 0#32) = true := by decide +kernel
/-- R201: CUR = 100, the engine consumes 7 for a budget of 5: RES = 7, CUR = 107. -/
theorem test_run : after (exec (.run 5#32) readyEngine) (fun t => t.res = 7#32 && t.cur = 107#32) = true := by
  decide +kernel
/-- R202: CUR = 107: IDLE 13 gives 120; IDLE 0xFFFFFFFF subtracts one. -/
theorem test_idle : after (exec (.idle 13#32) { ready with cur := 107#32 }) (fun t => t.cur = 120#32) = true := by
  decide +kernel
theorem test_idle_minus_one : after (exec (.idle 0xFFFFFFFF#32) ready) (fun t => t.cur = 99#32 && t.viol = none) =
    true := by decide +kernel
/-- R203: no active instance is needed. -/
theorem test_getCur : after (exec .getCur { closedState with cur := 0x78#32 }) (fun t => t.res = 0x78#32) = true := by
  decide +kernel
/-- R204: the stale saved value of the active slot. -/
theorem test_getSaved : after (exec (.getSaved 2#8) ready) (fun t => t.res = 1000#32) = true := by decide +kernel
/-- R215: the write direction replaces RB, TOTAL and SEGMENT of each live slot in ascending order. -/
theorem test_scan_write : after (exec (.scan true true) scanState) (fun t =>
    (t.slot 2).any (fun i => i.rb = ⟨21⟩ && i.total = 5#32 && i.segment = 6#32) &&
      (t.slot 5).any fun i => i.rb = ⟨22⟩ && i.total = 7#32 && i.segment = 8#32) = true := by decide +kernel
/-- R215 corner (b): outside driver scope nothing happens whatever `write` says. -/
theorem test_scan_noop : after (exec (.scan false true) scanState) (fun t =>
    (t.slot 2).any (fun i => i.rb = ⟨7⟩ && i.total = 1000#32) && t.env = scanState.env) = true := by decide +kernel
/-- spec/96, the run with ACTIVE_CHANGED: the nested CLOSE and OPEN have taken effect, the byte is not delivered. -/
theorem test_activeChanged : after (exec (.readByte 0x4000#16) readySwap) (fun t =>
    t.viol = some .activeChanged && t.active = some 2 && t.res = 0xFFFFFFFF#32) = true := by decide +kernel
/-- R270: with no command the block executes nothing; a word from withFetchWord is the next command. -/
theorem test_step_word : after (step (State.reset.withFetchWord 128 0x01000000000000000000000000000000)) (fun t =>
    t.count = 1#32 && t.env.ports.getLast? = some (.done 0#32)) = true := by decide +kernel

/-! ## Witnesses for the hypotheses of the obligations -/

theorem witness_slots : closedState.slot 2 = some inst ∧ closedState.slot 5 = some instCb ∧ closedState.slot 7 = none :=
  ⟨rfl, rfl, rfl⟩
/-- For the obligations whose hypothesis is an open instance without handlers: MapRangeEffect, SetMaskEffect, SetCbEffect,
SetRemapEffect, ReadByteEffect, WriteByteEffect, ReadOpEffect, ReadArgEffect, ReadPortEffect, WritePortEffect,
WriteRomEffect, PagePrecedence, StoreThenFetch, ConfigurationTakesEffectNext; the clauses are in witness_access. -/
theorem witness_opened : ready.Opened 2 inst := ⟨by decide, rfl, witness_slots.1⟩
/-- The same with a handler in every callback slot, for the clauses of a registered handler. -/
theorem witness_openedCb : readyCb.Opened 5 instCb := ⟨by decide, rfl, witness_slots.2.1⟩
/-- For CloseEffect and ProgramCounterReads, and the first clause of RunEffect. -/
theorem witness_ready : ready.Ready 2 inst ⟨9⟩ := ⟨witness_opened, rfl⟩
/-- For CpuResetEffect, SetIrqEffect, SetIrqxPreserves, RunEffect and CycleContinuity, with bus accesses. -/
theorem witness_readyEngine : readyEngine.Ready 2 inst ⟨9⟩ ∧ readyEngine.quiet = true :=
  ⟨⟨⟨by decide, rfl, witness_slots.1⟩, rfl⟩, by decide +kernel⟩
/-- For the clauses of CpuResetEffect, SetIrqEffect and RunEffect about behaviours without bus accesses. -/
theorem witness_readyQuiet : readyQuiet.Ready 2 inst ⟨9⟩ ∧ readyQuiet.quiet = true ∧
    readyQuiet.env.engineIn.all (fun b => noAccess b.acts) = true ∧
    (irqCalls 0#8 .auto).length ≤ readyQuiet.env.engineIn.length :=
  ⟨⟨⟨by decide, rfl, witness_slots.1⟩, rfl⟩, by decide +kernel, by decide +kernel, by decide +kernel⟩
theorem witness_memWf : ready.MemWf ∧ closedState.MemWf ∧ readyCb.MemWf := by
  refine ⟨?_, ?_, ?_⟩ <;> unfold State.MemWf <;> decide +kernel

theorem witness_HardwareResetValues : ({ ready with env := { ready.env with hostIn := [.hardwareReset] } } : State).env.hostIn =
    [.hardwareReset] ∧ ready.env.hostIn = [] := ⟨rfl, rfl⟩
theorem witness_StepRunsDecodedCommand :
    (ready.withCommand 0x2B000000000000000000000000000000#128).env.hostIn =
        [.command 0x2B000000000000000000000000000000#128] ∧
      decode 0x2B000000000000000000000000000000#128 = .ok .getCur ∧
      decodeTableWord 128 0x2B000000000000000000000000000000 = some .getCur :=
  ⟨rfl, by decide +kernel, by decide +kernel⟩
theorem witness_HostWriteBetweenCommands : ({ ready with env := { ready.env with
    hostIn := [.hostWrite 0xFFFFFFFFFFFFFFFF#64 1#8] } } : State).env.hostIn = [.hostWrite 0xFFFFFFFFFFFFFFFF#64 1#8] ∧
    ready.MemWf := ⟨rfl, witness_memWf.1⟩
/-- A word that matches no row, a word with an illegal selector, a word with a pointer beside `nul`, and a bus kind. -/
theorem witness_IllegalWordRaisesBadCommand :
    (∀ r ∈ opcodeTable, 0x04010000000000000000000000000000#128 &&& r.2.2 ≠ r.2.1) ∧
      illegalSubField (splitFields 0x12000600000000000000000000007001#128) = true ∧
      illegalSubField (splitFields 0x10000101000000FF0000000000001000#128) = true ∧ 6 ≤ (6#3).toNat ∧
      (ready.withCommand 0x04010000000000000000000000000000#128).env.hostIn =
        [.command 0x04010000000000000000000000000000#128] := by decide +kernel
theorem witness_UnknownOpcodesRejected :
    illegalOpcode (splitFields 0x31000000000000000000000000000000#128).op.toNat = true ∧
      illegalOpcode (splitFields 0x30000000000000000000000000000000#128).op.toNat = false := by decide +kernel
theorem witness_AcceptedWordsMatchTable :
    ("SCAN", 0x30000000000000000000000000000000#128, 0xFFFFFCFFFFFFFFFFFFFFFFFFFFFFFFFF#128) ∈ opcodeTable ∧
      0x30000300000000000000000000000000#128 &&& 0xFFFFFCFFFFFFFFFFFFFFFFFFFFFFFFFF#128 =
        0x30000000000000000000000000000000#128 := by decide +kernel
theorem witness_DecodeOfEncode : (Instr.setCb 5#3 (some 0xFFFFFFFFFFFFFFFF#64)).wellFormed = true := by decide
theorem witness_EncodeOfDecode : decode 0x12000500000000000000000000000000#128 = .ok (.setCb 5#3 (some 0#64)) := by
  decide +kernel
theorem witness_ViolationIsSticky : ∃ t, step { ready with viol := some .noInit } = .next t := ⟨_, rfl⟩
/-- Each code of R231 but ACTIVE_CHANGED is the first violation of some command. -/
theorem witness_FirstViolationRaised :
    firstViolation (.setCb 6#3 none) State.reset = some .badCommand ∧
      firstViolation .getCur State.reset = some .noInit ∧ firstViolation (.openSlot 8#8) ready = some .badSlot ∧
      firstViolation (.openSlot 2#8) ready = some .doubleOpen ∧ firstViolation .close closedState = some .noActive ∧
      firstViolation .destroy ready = some .destroyActive ∧
      firstViolation (.create 7#8 4#8) closedState = some .badVariant ∧
      firstViolation (.setMask 0xFFFE#16) ready = some .badMask := by decide +kernel
theorem witness_singleActive : ready.SingleActive ∧ closedState.SingleActive ∧ State.reset.SingleActive := by
  refine ⟨⟨?_, ?_⟩, rfl, rfl⟩ <;> decide +kernel
theorem witness_StepKeepsSingleActive : ∃ t, step ready = .next t ∧ t.viol = none := ⟨_, rfl, rfl⟩
theorem witness_StepKeepsMemoryCanonical : ready.MemWf ∧ ∃ t, step ready = .next t := ⟨witness_memWf.1, _, rfl⟩
theorem witness_StepKeepsMasksLegal : ready.MasksLegal ∧ ∃ t, step ready = .next t := by
  refine ⟨?_, _, rfl⟩
  intro a i h
  left
  have : ∀ a : Slot, (ready.slot a).all (fun i => maskOk i.mask) = true := by decide +kernel
  simpa [h] using this a
/-- A handler that issues nested commands and keeps its contract. -/
theorem witness_StepCompletesUnderContract : ({ ready with env := { ready.env with
    handlerIn := [{ acts := [.command (encode (.setIrqx 5#8 0#8 .auto))], answer := 0#8 }] } } : State).contractKept =
    true ∧ ready.SingleActive := ⟨by decide +kernel, witness_singleActive.1⟩
theorem witness_NestedSameAsTopLevel : readySwap.scripts < 2 := by decide +kernel
theorem witness_CompletesWithoutViolation : firstViolation (.run 5#32) readyEngine = none ∧
    readyEngine.SingleActive ∧ readyEngine.quiet = true ∧ firstViolation (.create 7#8 3#8) closedState = none ∧
    closedState.SingleActive ∧ closedState.quiet = true ∧ closedState.count + 1#32 ≠ 0#32 :=
  ⟨by decide +kernel, ⟨by decide +kernel, by decide +kernel⟩, by decide +kernel, by decide +kernel, rfl,
    by decide +kernel, by decide⟩
theorem witness_CreateEffect : 8 ≤ (8#8).toNat ∧ (7#8).toNat < 8 ∧ ready.active ≠ none ∧ closedState.active = none ∧
    4 ≤ (4#8).toNat ∧ (7#8).toNat = (7 : Slot).val ∧ variantOf 3#8 = some ⟨3, by decide⟩ ∧
    closedState.count + 1#32 ≠ 0#32 ∧
    (nextEngine { closedState with env := readyQuiet.env } (routineOf ⟨3, by decide⟩ .init) .init Ctx.zero).1.acts.all
      EngineAct.isLegal = true := by decide +kernel
/-- The last row of VARIANTS and the first id beyond it. -/
theorem witness_VariantBundles : (3#8).toNat < 4 ∧ 4 ≤ (4#8).toNat ∧ variantOf 3#8 = some ⟨3, by decide⟩ := by
  decide +kernel
theorem witness_DestroyEffect : ready.active ≠ none ∧ closedState.active = none ∧
    Instr.getCur.wellFormed = true := by decide +kernel
theorem witness_OpenEffect : State.reset.count = 0#32 ∧ closedState.count ≠ 0#32 ∧ 8 ≤ (8#8).toNat ∧
    (7#8).toNat = (7 : Slot).val ∧ closedState.slot 7 = none ∧ (2#8).toNat = (2 : Slot).val ∧
    closedState.slot 2 = some inst ∧ closedState.active = none ∧ ready.active ≠ none ∧ ready.slot 2 = some inst :=
  ⟨rfl, by decide, by decide, rfl, rfl, rfl, witness_slots.1, rfl, by decide, witness_slots.1⟩
/-- For the violations of every command on the active instance, and for the violation clauses of GetActiveEffect,
SetIrqxOtherCases, NewFrameEffect, CounterReads and ScanReadOut. -/
theorem witness_CommonViolations : State.reset.count = 0#32 ∧ closedState.count ≠ 0#32 ∧ closedState.active = none := by
  decide +kernel
theorem witness_GetActiveEffect : closedState.active = none ∧ closedState.count ≠ 0#32 ∧ readyCb.active = some 5 := by
  decide +kernel
/-- An address of a mapped page, an unmapped one without and with a handler, at the two ends of a page. -/
theorem witness_access :
    (translateAddr inst.rd inst.mask 0x20FF#16).2 = some 0x50FF#64 ∧ (translateAddr inst.wr inst.mask 0x0000#16).2 = some 0x9000#64 ∧
      (translateAddr inst.fe inst.mask 0xC0FF#16).2 = some 0x40FF#64 ∧ (translateAddr inst.rd inst.mask 0x1FFF#16).2 = none ∧
      (translateAddr inst.wr inst.mask 0xFFFF#16).2 = none ∧ (translateAddr inst.fe inst.mask 0x0000#16).2 = none ∧
      (∀ j : CbIndex, inst.cb[j] = none) ∧ (∀ j : CbIndex, instCb.cb[j] = some 0x7001#64) ∧
      (translateAddr instCb.rd instCb.mask 0x1FFF#16).2 = none ∧ (translateAddr instCb.wr instCb.mask 0xFFFF#16).2 = none ∧
      (translateAddr instCb.fe instCb.mask 0x0000#16).2 = none ∧ readyCb.quiet = true ∧ ready.quiet = true := by
  decide +kernel
theorem witness_TranslationRule : inst.rd.entry ((0x20FF#16 &&& inst.mask).extractLsb' 8 8) = some 0x5000#64 ∧
    inst.rd.entry ((0x1FFF#16 &&& inst.mask).extractLsb' 8 8) = none := by decide +kernel
theorem witness_SetMaskEffect : (0x00FE#16).toNat % 256 ≠ 0xFF ∧ (0x00FF#16).toNat % 256 = 0xFF := by decide
theorem witness_SetCbEffect : (5#3).toNat < 6 ∧ 6 ≤ (6#3).toNat := by decide
/-- The four clauses: a nested command is bounded, ACTIVE unchanged, ACTIVE changed, a handler that only writes. -/
theorem witness_HandlerInvocation :
    (nextHandler readySwap 0x7001#64 2 0x4000#16).2.scripts < readySwap.scripts ∧
      after (handlerActs readyCb.nest (nextHandler readyCb 0x7001#64 2 0x4000#16).1.acts
        ((nextHandler readyCb 0x7001#64 2 0x4000#16).2.log (.cb 0x7001#64 2 0x4000#16 none))) (fun t =>
          t.active = readyCb.active) = true ∧
      after (handlerActs readySwap.nest (nextHandler readySwap 0x7001#64 2 0x4000#16).1.acts
        ((nextHandler readySwap 0x7001#64 2 0x4000#16).2.log (.cb 0x7001#64 2 0x4000#16 none))) (fun t =>
          t.active ≠ readySwap.active) = true ∧
      (nextHandler readyCb 0x7001#64 2 0x4000#16).1.acts.all HandlerAct.isWrite = true := by decide +kernel
theorem witness_StoreThenFetch : (translateAddr inst.wr inst.mask 0xC000#16).2 = some 0x4000#64 ∧
    (translateAddr inst.fe inst.mask 0xC000#16).2 = some 0x4000#64 := by decide +kernel
theorem witness_ConfigurationTakesEffectNext : (1#3).getLsbD 0 = true ∧
    (0x8000#16).toNat / 256 ≤ (0x8012#16 &&& inst.mask).toNat / 256 ∧
    (0x8012#16 &&& inst.mask).toNat / 256 ≤ (0x80FF#16).toNat / 256 ∧
    (0x1000#64).toNat + ((0x8012#16 &&& inst.mask).toNat - (0x8000#16).toNat / 256 * 256) < 2 ^ 64 ∧
    (translateAddr inst.rd 0x7FFF#16 0xA034#16).2 = some 0x5034#64 ∧ ready.quiet = true := by decide +kernel
theorem witness_BusAccessIsCommand : (5#3).toNat < 6 ∧ readySwap.scripts ≤ 1 := by decide +kernel
/-- The clauses on scripts: one for each call, and none with a bus access. -/
theorem witness_SetIrqx_scripts : readyQuiet.slot 5 = some instCb ∧
    (irqCalls 0#8 .auto).length ≤ readyQuiet.env.engineIn.length ∧
    ({ closedState with env := readyQuiet.env } : State).quiet = true ∧
    readyQuiet.env.engineIn.all (fun e => noAccess e.acts) = true :=
  ⟨witness_slots.2.1, by decide +kernel, by decide +kernel, by decide +kernel⟩
/-- Two instances, one of them active, and nothing nested: SetIrqxPreserves and CycleContinuity; SetIrqxOtherCases on the
active one, on an absent one and with none active. -/
theorem witness_SetIrqx : (2 : Slot) ≠ 5 ∧ (5#8).toNat = (5 : Slot).val ∧ (2#8).toNat = (2 : Slot).val ∧
    readyEngine.slot 5 = some instCb ∧ readyEngine.quiet = true ∧ closedState.quiet = true ∧
    closedState.active = none ∧ closedState.slot 5 = some instCb ∧ closedState.slot 7 = none :=
  ⟨by decide, rfl, rfl, witness_slots.2.1, by decide +kernel, by decide +kernel, rfl, witness_slots.2.1, rfl⟩
/-- For NewFrameEffect, IdleEffect and CounterReads. -/
theorem witness_NewFrameEffect : ready.count ≠ 0#32 ∧ ready.active ≠ none ∧ ready.slot 5 ≠ none := by decide +kernel
theorem witness_RunEffect :
    nextEngine readyQuiet (routineOf inst.variant (.execute 5#32)) (.execute 5#32) ⟨9⟩ =
        ({ acts := [.setContext ⟨11⟩], consumed := 7#32 }, readyQuiet.setEngineIn readyQuiet.env.engineIn.tail) ∧
      noAccess [.setContext ⟨11⟩] = true := ⟨rfl, rfl⟩
/-- For ScanWithNestedCommands: a driver with a nested command (GETCUR), which leaves the slot it is presented live. -/
def scanNested : State :=
  { scanState with
    env := { scanState.env with
      snapIn := [{ commands := [encode .getCur], rb := ⟨21⟩, total := 5#32, segment := 6#32 }] } }
theorem witness_ScanWithNestedCommands : scanNested.count ≠ 0#32 ∧ (nextSnap scanNested 2).2.scripts < scanNested.scripts ∧
    scanNested.slot 2 = some inst ∧ scanNested.slot 7 = none ∧
    after (snapCommands scanNested.nest (nextSnap scanNested 2).1.commands
      ((nextSnap scanNested 2).2.log (.snap (Config.snapNaming.name 2) inst.rb inst.total inst.segment true)))
      (fun v => (v.slot 2).isSome) = true :=
  ⟨by decide, by decide +kernel, rfl, rfl, by decide +kernel⟩
/-- R9, R215: the nested command runs inside the SCAN, before the driver's values are written. -/
theorem test_scan_nested : after (exec (.scan true true) scanNested) (fun t =>
    t.env.ports.any (fun e => e = .done 0#32) && (t.slot 2).any (fun i => i.total = 5#32) && t.viol = none) = true := by
  decide +kernel

/-- For ScanReadOut and ScanWriteIn. -/
theorem witness_ScanWriteIn : scanState.count ≠ 0#32 ∧ scanState.quiet = true ∧ scanState.slot 5 = some instCb ∧
    scanState.slot 7 = none ∧ scanState.env.snapIn[(scanState.liveBelow 5).length]? =
      some { commands := [], rb := ⟨22⟩, total := 7#32, segment := 8#32 } :=
  ⟨by decide, by decide +kernel, witness_slots.2.1, rfl, by decide +kernel⟩
/-- For OnlyItsCommandWritesEachField and OtherInstancesUntouched. -/
theorem witness_OnlyItsCommandWritesEachField : (∃ t, exec (.idle 1#32) ready = .next t) ∧ ready.quiet = true ∧
    (∀ b v, Instr.idle 1#32 ≠ .create b v) ∧ Instr.idle 1#32 ≠ .destroy ∧ needsActive (.idle 1#32) = true :=
  ⟨⟨_, rfl⟩, by decide +kernel, nofun, nofun, rfl⟩
theorem witness_SnapshotNamesUnique : Config.snapNaming.name 7 = Config.snapNaming.name 7 := rfl
theorem witness_OpenCloseRoundTrip : closedState.count ≠ 0#32 ∧ closedState.active = none ∧
    (5#8).toNat = (5 : Slot).val ∧ closedState.slot 5 = some instCb := ⟨by decide, rfl, rfl, witness_slots.2.1⟩

end Sys2Proof.Tests
end

section
/-! The depth of nesting (R134, R135). Every change a command is made of leaves at most as many scripts queued, and a
nested command is issued only by a script that has been taken: so two ways of serving nested commands that agree below
`s.scripts` give every command the same outcome in `s`. -/

namespace Sys2Proof.Machine

/-! The scripts that are left. -/

/-- No change queues a script. -/
theorem Change.scripts_le {s t : State} (h : Change s t) : t.scripts ≤ s.scripts := by
  cases h with
  | engine r call c => simp [State.scripts]
  | handler id sel a => rcases nextHandler_snd s id sel a with h | h <;> rw [h] <;> simp [State.scripts, State.useSerial]
  | snap a => rcases nextSnap_snd s a with h | h <;> rw [h] <;> simp [State.scripts, State.useSerial]
  | _ => exact Nat.le_refl s.scripts

/-- A chain of changes queues no script. -/
theorem Reaches.scripts_le {s t : State} (h : Reaches s t) : t.scripts ≤ s.scripts :=
  h.keeps (P := fun u => u.scripts ≤ s.scripts) (fun _ _ hu c => c.scripts_le.trans hu) (Nat.le_refl s.scripts)

/-- A handler that acts does so by a script that has been taken. -/
theorem nextHandler_acts_nil_or_scripts_lt (s : State) (id : HandlerId) (sel : CbIndex) (a : Addr) :
    (nextHandler s id sel a).1.acts = [] ∨ (nextHandler s id sel a).2.scripts < s.scripts := by
  unfold nextHandler
  split
  · next h => simp [State.scripts, h]
  · simp

/-- A snapshot driver that issues commands does so by a script that has been taken. -/
theorem nextSnap_commands_nil_or_scripts_lt (s : State) (a : Slot) :
    (nextSnap s a).1.commands = [] ∨ (nextSnap s a).2.scripts < s.scripts := by
  unfold nextSnap
  split
  · next h => simp [State.scripts, h]
  · simp

/-! Outcomes that agree. -/

/-- Two ways of serving nested commands, the first by chains of changes, that agree where fewer than `n` scripts are
queued. -/
structure AgreeBelow (n : Nat) (m₁ m₂ : Nest) : Prop where
  chained : Chained m₁
  eq : ∀ cw s, s.scripts < n → m₁ cw s = m₂ cw s

/-- Two commands, or rests of one, that agree where at most `n` scripts are queued. -/
def AgreeUpTo (n : Nat) (k₁ k₂ : State → Out) : Prop := ∀ s, s.scripts ≤ n → k₁ s = k₂ s

theorem AgreeUpTo.rfl {n : Nat} {k : State → Out} : AgreeUpTo n k k := fun _ _ => Eq.refl _

theorem checkInit_agree {n : Nat} {k₁ k₂ : State → Out} (hk : AgreeUpTo n k₁ k₂) :
    AgreeUpTo n (fun s => checkInit s (k₁ s)) (fun s => checkInit s (k₂ s)) :=
  fun s hs => congrArg (checkInit s) (hk s hs)

theorem commonChecks_agree {n : Nat} {k₁ k₂ : State → Out} (hk : AgreeUpTo n k₁ k₂) :
    AgreeUpTo n (fun s => commonChecks s fun _ => k₁ s) (fun s => commonChecks s fun _ => k₂ s) :=
  fun s hs => congrArg (commonChecks s) (funext fun _ => hk s hs)

theorem withActive_congr {s : State} {k₁ k₂ : Slot → Instance → Out} (h : ∀ a i, k₁ a i = k₂ a i) :
    withActive s k₁ = withActive s k₂ :=
  congrArg (withActive s) (funext₂ h)

theorem doOpen_agree {n : Nat} {a : Slot} {k₁ k₂ : State → Out} (hk : AgreeUpTo n k₁ k₂) :
    AgreeUpTo n (fun s => doOpen s a k₁) (fun s => doOpen s a k₂) :=
  fun s hs => congrArg (withInstance s a) (funext fun _ => hk _ hs)

theorem doClose_agree {n : Nat} {k₁ k₂ : State → Out} (hk : AgreeUpTo n k₁ k₂) :
    AgreeUpTo n (fun s => doClose s k₁) (fun s => doClose s k₂) :=
  fun s hs => withActive_congr fun _ _ => congrArg (withContext s) (funext fun _ => hk _ hs)

section
variable {n : Nat} {m₁ m₂ : Nest} (hm : AgreeBelow n m₁ m₂)
include hm

/-! Handlers and the snapshot driver. -/

theorem handlerActs_agree (acts : List HandlerAct) (s : State) (hs : s.scripts < n) :
    handlerActs m₁ acts s = handlerActs m₂ acts s := by
  induction acts generalizing s with
  | nil => rfl
  | cons act rest ih =>
    cases act with
    | command cw =>
      calc andThen (m₁ cw s) (handlerActs m₁ rest)
          = andThen (m₁ cw s) (handlerActs m₂ rest) :=
            andThen_congr fun u hu => ih u ((hm.chained _ _ _ hu).scripts_le.trans_lt hs)
        _ = andThen (m₂ cw s) (handlerActs m₂ rest) := by rw [hm.eq cw s hs]
    | hostWrite h v => exact ih (s.pokeHost h v) hs

theorem snapCommands_agree (cws : List CommandWord) (s : State) (hs : s.scripts < n) :
    snapCommands m₁ cws s = snapCommands m₂ cws s := by
  induction cws generalizing s with
  | nil => rfl
  | cons cw rest ih =>
    calc andThen (m₁ cw s) (snapCommands m₁ rest)
        = andThen (m₁ cw s) (snapCommands m₂ rest) :=
          andThen_congr fun u hu => ih u ((hm.chained _ _ _ hu).scripts_le.trans_lt hs)
      _ = andThen (m₂ cw s) (snapCommands m₂ rest) := by rw [hm.eq cw s hs]

/-- The key fact on handlers: the handler has no acts, or its script has been taken and is no longer counted. -/
theorem callHandler_agree (id : HandlerId) (sel : CbIndex) (a : Addr) (d : Option Byte) (k : Byte → State → Out) :
    AgreeUpTo n (fun s => callHandler m₁ id sel a d s k) (fun s => callHandler m₂ id sel a d s k) := by
  intro s hs
  have h : handlerActs m₁ (nextHandler s id sel a).1.acts ((nextHandler s id sel a).2.log (.cb id sel a d)) =
      handlerActs m₂ (nextHandler s id sel a).1.acts ((nextHandler s id sel a).2.log (.cb id sel a d)) := by
    rcases nextHandler_acts_nil_or_scripts_lt s id sel a with hnil | hlt
    · rw [hnil]; rfl
    · exact handlerActs_agree hm _ _ (hlt.trans_le hs)
  simp only [callHandler, h]

/-- The key fact on the snapshot driver: it issues no command, or its script has been taken. -/
theorem scanRecord_agree (write : Bool) (a : Slot) (i : Instance) {k₁ k₂ : State → Out} (hk : AgreeUpTo n k₁ k₂) :
    AgreeUpTo n (fun s => scanRecord m₁ write a i s k₁) (fun s => scanRecord m₂ write a i s k₂) := by
  intro s hs
  have h : ∀ e, snapCommands m₁ (nextSnap s a).1.commands ((nextSnap s a).2.log e) =
      snapCommands m₂ (nextSnap s a).1.commands ((nextSnap s a).2.log e) := fun e => by
    rcases nextSnap_commands_nil_or_scripts_lt s a with hnil | hlt
    · rw [hnil]; rfl
    · exact snapCommands_agree hm _ _ (hlt.trans_le hs)
  simp only [scanRecord, ← h]
  refine andThen_congr fun u hu => ?_
  have hu : u.scripts ≤ n :=
    (((Reaches.one (.snap s a)).tail (.log _ _)).trans (snapCommands_chain hm.chained _ _ _ hu)).scripts_le.trans hs
  split
  · exact congrArg (withInstance u a) (funext fun j => hk _ hu)
  · exact hk u hu

theorem scanSlots_agree (write : Bool) (slots : List Slot) :
    AgreeUpTo n (scanSlots m₁ write slots) (scanSlots m₂ write slots) := by
  induction slots with
  | nil => exact AgreeUpTo.rfl
  | cons a rest ih =>
    intro s hs
    unfold scanSlots
    split
    · exact ih s hs
    · next i _ => exact scanRecord_agree hm write a i ih s hs

theorem scanBy_agree (driver write : Bool) : AgreeUpTo n (scanBy m₁ driver write) (scanBy m₂ driver write) :=
  checkInit_agree fun s hs => by rw [scanSlots_agree hm write _ s hs]

/-! The access commands: a handler call is the only part that serves nested commands. -/

theorem pagedRead_agree (table : Instance → PageTable) (sel : CbIndex) (addr : Addr) (k : Byte → State → Out) :
    AgreeUpTo n (fun s => pagedRead m₁ table sel addr s k) (fun s => pagedRead m₂ table sel addr s k) := by
  refine fun s hs => withActive_congr fun _ i => ?_
  split
  · rfl
  · split
    · exact callHandler_agree hm _ _ _ _ _ s hs
    · rfl

theorem readByteBy_agree (addr : Addr) : AgreeUpTo n (readByteBy m₁ addr) (readByteBy m₂ addr) :=
  commonChecks_agree (pagedRead_agree hm _ _ _ _)

theorem readOpBy_agree (addr : Addr) : AgreeUpTo n (readOpBy m₁ addr) (readOpBy m₂ addr) :=
  commonChecks_agree (pagedRead_agree hm _ _ _ _)

theorem readArgBy_agree (addr : Addr) : AgreeUpTo n (readArgBy m₁ addr) (readArgBy m₂ addr) :=
  commonChecks_agree (pagedRead_agree hm _ _ _ _)

theorem writeByteBy_agree (addr : Addr) (data : Byte) :
    AgreeUpTo n (writeByteBy m₁ addr data) (writeByteBy m₂ addr data) := by
  refine commonChecks_agree fun s hs => withActive_congr fun _ i => ?_
  split
  · rfl
  · split
    · exact callHandler_agree hm _ _ _ _ _ s hs
    · rfl

theorem readPortBy_agree (addr : Addr) : AgreeUpTo n (readPortBy m₁ addr) (readPortBy m₂ addr) := by
  refine commonChecks_agree fun s hs => withActive_congr fun _ i => ?_
  split
  · exact callHandler_agree hm _ _ _ _ _ s hs
  · rfl

theorem writePortBy_agree (addr : Addr) (data : Byte) :
    AgreeUpTo n (writePortBy m₁ addr data) (writePortBy m₂ addr data) := by
  refine commonChecks_agree fun s hs => withActive_congr fun _ i => ?_
  split
  · exact callHandler_agree hm _ _ _ _ _ s hs
  · rfl

theorem writeRomBy_agree (addr : Addr) (data : Byte) :
    AgreeUpTo n (writeRomBy m₁ addr data) (writeRomBy m₂ addr data) := by
  refine commonChecks_agree fun s hs => withActive_congr fun _ i => ?_
  split
  · exact callHandler_agree hm _ _ _ _ _ _ ((writeViews_chain i addr data s).scripts_le.trans hs)
  · rfl

/-! The engine, whose bus accesses are access commands (R85). -/

theorem busCommand_agree (kind : BitVec 3) (addr : Addr) (wdata : Byte) :
    AgreeUpTo n (busCommand m₁ kind addr wdata) (busCommand m₂ kind addr wdata) := by
  intro s hs
  unfold busCommand
  split
  · exact readByteBy_agree hm addr s hs
  · exact writeByteBy_agree hm addr wdata s hs
  · exact readOpBy_agree hm addr s hs
  · exact readArgBy_agree hm addr s hs
  · exact readPortBy_agree hm addr s hs
  · exact writePortBy_agree hm addr wdata s hs
  · rfl

theorem engineActs_agree (acts : List EngineAct) : AgreeUpTo n (engineActs m₁ acts) (engineActs m₂ acts) := by
  induction acts with
  | nil => exact AgreeUpTo.rfl
  | cons act rest ih =>
    intro s hs
    cases act with
    | setContext c => exact ih _ hs
    | access kind addr wdata =>
      have h : busAccess m₁ kind addr wdata s = busAccess m₂ kind addr wdata s := by
        rw [busAccess, busCommand_agree hm kind addr wdata s hs, busAccess]
      calc andThen (busAccess m₁ kind addr wdata s) (engineActs m₁ rest)
          = andThen (busAccess m₁ kind addr wdata s) (engineActs m₂ rest) :=
            andThen_congr fun u hu => ih u ((busAccess_chain hm.chained _ _ _ _ _ hu).scripts_le.trans hs)
        _ = andThen (busAccess m₂ kind addr wdata s) (engineActs m₂ rest) := by rw [h]

theorem invoke_agree (call : EngineCall) {k₁ k₂ : Cycles → State → Out} (hk : ∀ c, AgreeUpTo n (k₁ c) (k₂ c)) :
    AgreeUpTo n (fun s => invoke m₁ call s k₁) (fun s => invoke m₂ call s k₂) := by
  refine fun s hs => withActive_congr fun a i => congrArg (withContext s) (funext fun c => ?_)
  have hstart : Reaches s
      ((nextEngine s (routineOf i.variant call) call c).2.log (.ectl a (routineOf i.variant call) call)) :=
    (Reaches.one (.engine s _ call c)).tail (.log _ _)
  rw [← engineActs_agree hm _ _ (hstart.scripts_le.trans hs)]
  exact andThen_congr fun u hu =>
    hk _ u ((hstart.trans (engineActs_chain hm.chained _ _ _ hu)).scripts_le.trans hs)

theorem invokeVoid_agree (call : EngineCall) {k₁ k₂ : State → Out} (hk : AgreeUpTo n k₁ k₂) :
    AgreeUpTo n (fun s => invokeVoid m₁ call s k₁) (fun s => invokeVoid m₂ call s k₂) :=
  invoke_agree hm call fun _ => hk

theorem cpuResetBy_agree : AgreeUpTo n (cpuResetBy m₁) (cpuResetBy m₂) :=
  commonChecks_agree (invokeVoid_agree hm _ AgreeUpTo.rfl)

theorem runBy_agree (c : Cycles) : AgreeUpTo n (runBy m₁ c) (runBy m₂ c) :=
  commonChecks_agree (invoke_agree hm _ fun _ => AgreeUpTo.rfl)

theorem createBy_agree (b v : BitVec 8) : AgreeUpTo n (createBy m₁ b v) (createBy m₂ b v) := by
  intro s hs
  unfold createBy
  split
  · rfl
  · split
    · rfl
    · split
      · rfl
      · exact doOpen_agree (invokeVoid_agree hm _ AgreeUpTo.rfl) _ hs

/-! Interrupt lines. -/

theorem setLine_agree (line : BitVec 8) (level : Bool) {k₁ k₂ : State → Out} (hk : AgreeUpTo n k₁ k₂) :
    AgreeUpTo n (fun s => setLine m₁ line level s k₁) (fun s => setLine m₂ line level s k₂) :=
  invokeVoid_agree hm _ hk

theorem applyIrq_agree (line : BitVec 8) (status : IrqStatus) {k₁ k₂ : State → Out} (hk : AgreeUpTo n k₁ k₂) :
    AgreeUpTo n (fun s => applyIrq m₁ line status s k₁) (fun s => applyIrq m₂ line status s k₂) := by
  intro s hs
  cases status with
  | none => exact setLine_agree hm line false hk s hs
  | ack => exact setLine_agree hm line true hk s hs
  | auto =>
    simp only [applyIrq]
    split
    · exact setLine_agree hm line true (setLine_agree hm line false hk) s hs
    · exact setLine_agree hm line true (invokeVoid_agree hm _ (setLine_agree hm line false (invokeVoid_agree hm _ hk))) s hs
  | hold => exact invokeVoid_agree hm _ (setLine_agree hm line true hk) s hs

theorem setIrqBy_agree (line : BitVec 8) (status : IrqStatus) :
    AgreeUpTo n (setIrqBy m₁ line status) (setIrqBy m₂ line status) :=
  commonChecks_agree (applyIrq_agree hm line status AgreeUpTo.rfl)

theorem bracketed_agree (target : Slot) (line : BitVec 8) (status : IrqStatus) :
    AgreeUpTo n (bracketed m₁ target line status) (bracketed m₂ target line status) := by
  intro s hs
  unfold bracketed
  split
  · exact doOpen_agree (applyIrq_agree hm line status AgreeUpTo.rfl) s hs
  · exact doClose_agree (doOpen_agree (applyIrq_agree hm line status AgreeUpTo.rfl)) s hs

theorem setIrqxBy_agree (b line : BitVec 8) (status : IrqStatus) :
    AgreeUpTo n (setIrqxBy m₁ b line status) (setIrqxBy m₂ b line status) := by
  refine checkInit_agree fun s hs => congrArg (checkLive s b) (funext₂ fun target _ => ?_)
  split
  · exact applyIrq_agree hm line status AgreeUpTo.rfl s hs
  · exact bracketed_agree hm target line status s hs

/-! Every command. -/

theorem nestedCommand_agree (i : Instr) : AgreeUpTo n (nestedCommand m₁ i) (nestedCommand m₂ i) := by
  cases i with
  | create b v => exact createBy_agree hm b v
  | cpuReset => exact cpuResetBy_agree hm
  | readByte addr => exact readByteBy_agree hm addr
  | writeByte addr data => exact writeByteBy_agree hm addr data
  | readOp addr => exact readOpBy_agree hm addr
  | readArg addr => exact readArgBy_agree hm addr
  | readPort addr => exact readPortBy_agree hm addr
  | writePort addr data => exact writePortBy_agree hm addr data
  | writeRom addr data => exact writeRomBy_agree hm addr data
  | setIrq line status => exact setIrqBy_agree hm line status
  | setIrqx b line status => exact setIrqxBy_agree hm b line status
  | run c => exact runBy_agree hm c
  | scan driver write => exact scanBy_agree hm driver write
  | _ => exact AgreeUpTo.rfl

theorem nestedWord_agree (cw : CommandWord) : AgreeUpTo n (nestedWord m₁ cw) (nestedWord m₂ cw) := by
  intro s hs
  unfold nestedWord
  split
  · rw [nestedCommand_agree hm _ s hs]
  · rfl

end

/-! The depth a command is served at. -/

/-- Depths of `n` or more serve alike where fewer than `n` scripts are queued. -/
theorem serveNested_agreeBelow (n : Nat) {d e : Nat} (hd : n ≤ d) (he : n ≤ e) :
    AgreeBelow n (serveNested d) (serveNested e) := by
  induction n generalizing d e with
  | zero => exact ⟨serveNested_chain d, fun _ _ h => absurd h (Nat.not_lt_zero _)⟩
  | succ n ih =>
    obtain ⟨d, rfl⟩ := Nat.exists_eq_add_of_le' hd
    obtain ⟨e, rfl⟩ := Nat.exists_eq_add_of_le' he
    exact ⟨serveNested_chain _, fun cw s hs =>
      nestedWord_agree (ih (Nat.le_add_left n d) (Nat.le_add_left n e)) cw s (Nat.le_of_lt_succ hs)⟩

/-- A word at top level is served as a nested one is, with the commands nested in it served as `State.nest` says. -/
theorem runWord_eq_nestedWord (cw : CommandWord) (s : State) : runWord cw s = nestedWord s.nest cw s := by
  unfold runWord nestedWord
  cases decode cw with
  | ok i => exact congrArg (andThen · answer) (exec_eq_nestedCommand i s)
  | rejected _ => rfl

/-- Settles O18: one level of `serveNested` is `nestedWord`, and below it every depth from `s.scripts` on serves alike. -/
theorem nestedSameAsTopLevel : Obligations.NestedSameAsTopLevel := by
  intro d s cw hd
  obtain ⟨d, rfl⟩ := Nat.exists_eq_add_of_lt hd
  rw [runWord_eq_nestedWord]
  exact nestedWord_agree (serveNested_agreeBelow s.scripts (Nat.le_add_right _ d) (Nat.le_refl _)) cw s (Nat.le_refl _)

end Sys2Proof.Machine
end

section
/-! SCAN with a driver that issues nested commands (R9, R215). -/

namespace Sys2Proof.Machine

/-- A nested command of a command that begins in `s` is served as at top level once one of `s`'s scripts is taken. -/
theorem nest_eq_runWord {s t : State} (h : t.scripts < s.scripts) (cw : CommandWord) : s.nest cw t = runWord cw t :=
  nestedSameAsTopLevel s.scripts t cw h

/-- Taking the driver's script touches no state of the block. -/
theorem nextSnap_sameBlock (s : State) (a : Slot) : s.SameBlock (nextSnap s a).2 := by
  constructor <;> simp

theorem scanSlots_cons_of_absent (nest : Nest) (write : Bool) {s : State} {a : Slot} (h : s.slot a = none)
    (rest : List Slot) : scanSlots nest write (a :: rest) s = scanSlots nest write rest s := by
  rw [scanSlots, h]

theorem scanSlots_cons_of_live (nest : Nest) (write : Bool) {s : State} {a : Slot} {i : Instance} (h : s.slot a = some i)
    (rest : List Slot) :
    scanSlots nest write (a :: rest) s = scanRecord nest write a i s (scanSlots nest write rest) := by
  rw [scanSlots, h]

/-- A record whose driver's commands end in `v`: the driver's values are then written in the write direction only. -/
theorem scanRecord_of_commands {nest : Nest} {write : Bool} {a : Slot} {i : Instance} {s v : State}
    (hv : snapCommands nest (nextSnap s a).1.commands
      ((nextSnap s a).2.log (.snap (Config.snapNaming.name a) i.rb i.total i.segment write)) = .next v)
    (k : State → Out) :
    scanRecord nest write a i s k =
      if write then withInstance v a fun j => k (v.setSlot a (some (j.restore (nextSnap s a).1))) else k v := by
  rw [scanRecord, hv, andThen_next]

/-- Settles O60: the equations of `scanSlots` and `scanRecord`, with the driver's commands served as at top level. -/
theorem scanWithNestedCommands : Obligations.ScanWithNestedCommands := by
  refine fun s write => ⟨fun hc => checkInit_of hc _, fun t => ⟨rfl, fun cw rest ht => ?_, fun a rest =>
    ⟨fun ha => scanSlots_cons_of_absent _ _ ha rest, fun i d u hi hd => ?_⟩⟩⟩
  · rw [snapCommands, nest_eq_runWord ht]
  · obtain ⟨rfl, rfl⟩ : (nextSnap t a).1 = d ∧ (nextSnap t a).2 = u := by simp [hd]
    refine ⟨nextSnap_sameBlock t a, nextSnap_mem t a, fun v hv => ?_⟩
    rw [scanSlots_cons_of_live _ _ hi, scanRecord_of_commands hv]
    constructor
    · rintro rfl
      rfl
    · rintro rfl j hj
      refine ⟨v.setSlot a (some (j.restore (nextSnap t a).1)), withInstance_of hj _, ?_, fun b hb => ?_, rfl⟩
      · exact State.setSlot_slot_self v a _
      · exact State.setSlot_slot_ne v _ hb.symm

end Sys2Proof.Machine
end

section
/-! The step on a decoded word, and SCRAMBLE. -/

namespace Sys2Proof

theorem Decoded.instr?_eq_some {o : Decoded} {i : Instr} : o.instr? = some i ↔ o = .ok i := by
  cases o <;> simp [Decoded.instr?]

end Sys2Proof

namespace Sys2Proof.Machine

/-! The input the next step takes. -/

/-- A word on port CMD that spells a command. -/
theorem runWord_of_decode {cw : CommandWord} {i : Instr} (h : decode cw = .ok i) (s : State) :
    runWord cw s = andThen (exec i s) answer := by
  simp [runWord, h]

/-- A word placed in front of the HOST's inputs is what the next step takes. -/
theorem step_withCommand (s : State) (cw : CommandWord) : step (s.withCommand cw) = runWord cw s :=
  step_command (s := s.withCommand cw) rfl

/-- Settles O2: the step is `runWord` of the word in front, and `runWord` is exec of what the word decodes to. -/
theorem stepRunsDecodedCommand : Obligations.StepRunsDecodedCommand := by
  refine ⟨fun s cw rest i hIn hi => ?_, fun s nbits w i hi => ?_⟩
  · rw [step_command hIn, runWord_of_decode hi]
    rfl
  · rw [State.withFetchWord, step_withCommand, runWord_of_decode (Decoded.instr?_eq_some.1 hi)]
    rfl

/-! SCRAMBLE. -/

/-- Bit `k` of a byte with its bits permuted. -/
@[simp] theorem permuteBits_getLsbD (π : Equiv.Perm (Fin 8)) (b : Byte) (k : Fin 8) :
    (permuteBits π b).getLsbD k.val = b.getLsbD (π k).val := by
  simp [permuteBits]

/-- A permutation of bit positions is undone by its inverse. -/
theorem permuteBits_symm_permuteBits (π : Equiv.Perm (Fin 8)) (b : Byte) : permuteBits π.symm (permuteBits π b) = b :=
  BitVec.eq_of_getLsbD_eq fun k hk =>
    calc (permuteBits π.symm (permuteBits π b)).getLsbD k
        = (permuteBits π b).getLsbD (π.symm ⟨k, hk⟩).val := permuteBits_getLsbD π.symm _ ⟨k, hk⟩
      _ = b.getLsbD (π (π.symm ⟨k, hk⟩)).val := permuteBits_getLsbD π b _
      _ = b.getLsbD k := by rw [Equiv.apply_symm_apply]

theorem permuteBits_injective (π : Equiv.Perm (Fin 8)) : Function.Injective (permuteBits π) :=
  Function.LeftInverse.injective (permuteBits_symm_permuteBits π)

theorem permuteBits_zero (π : Equiv.Perm (Fin 8)) : permuteBits π 0#8 = 0#8 :=
  BitVec.eq_of_getLsbD_eq fun k hk => by simpa using permuteBits_getLsbD π 0#8 ⟨k, hk⟩

/-- The default of SCRAMBLE exchanges bits 5 and 6 and keeps the other six (R4). -/
theorem permuteBits_default (b : Byte) :
    permuteBits Config.scrambleBitsDefault b =
      (b &&& 0x9F#8) ||| ((b >>> 1) &&& 0x20#8) ||| ((b &&& 0x20#8) <<< 1) := by
  refine BitVec.eq_of_getLsbD_eq fun k hk => ?_
  refine (permuteBits_getLsbD _ b ⟨k, hk⟩).trans ?_
  interval_cases k <;> simp [Config.scrambleBitsDefault, Equiv.swap_apply_def]

/-- Settles O59: each clause is the one for any permutation of bit positions. -/
theorem scramblePermutes : Obligations.ScramblePermutes :=
  ⟨permuteBits_getLsbD _, permuteBits_injective _, permuteBits_zero _, permuteBits_default⟩

end Sys2Proof.Machine
end

section
/-! What an outcome ends in: a rule for each shared operation, from a condition on the state it begins in to a condition
on its next state. -/

namespace Sys2Proof.Machine

/-- The outcome is a next state of which `Q` holds, or a stop. `stops` says what a stop is worth: with `True` the claim
is about next states only, with `False` it includes that the machine does not stop. -/
def Ends (stops : Prop) (o : Out) (Q : State → Prop) : Prop :=
  match o with
  | .next t => Q t
  | .fault _ | .refused _ => stops

theorem ends_true_iff {o : Out} {Q : State → Prop} : Ends True o Q ↔ ∀ t, o = .next t → Q t := by
  cases o <;> simp [Ends]

theorem ends_false_iff {o : Out} {Q : State → Prop} : Ends False o Q ↔ ∃ t, o = .next t ∧ Q t := by
  cases o <;> simp [Ends]

section
variable {stops : Prop} {Q R : State → Prop}

theorem ends_andThen {o : Out} {k : State → Out} :
    Ends stops (andThen o k) Q ↔ Ends stops o fun t => Ends stops (k t) Q := by
  cases o <;> rfl

theorem Ends.mono {o : Out} (h : Ends stops o Q) (hQ : ∀ t, Q t → R t) : Ends stops o R := by
  cases o with
  | next t => exact hQ t h
  | _ => exact h

theorem ends_checkInit {s : State} {k : Out} (hi : s.count = 0#32 → Q (s.violate .noInit))
    (hk : s.count ≠ 0#32 → Ends stops k Q) : Ends stops (checkInit s k) Q := by
  unfold checkInit
  split
  · next h => exact hi h
  · next h => exact hk h

theorem ends_commonChecks {s : State} {k : Slot → Out} (hi : s.count = 0#32 → Q (s.violate .noInit))
    (ha : s.active = none → Q (s.violate .noActive)) (hk : ∀ a, s.active = some a → Ends stops (k a) Q) :
    Ends stops (commonChecks s k) Q := by
  refine ends_checkInit hi fun _ => ?_
  unfold checkActive
  split
  · next h => exact ha h
  · next a h => exact hk a h

theorem ends_checkLive {s : State} {b : BitVec 8} {k : Slot → Instance → Out}
    (hb : s.isLive b = false → Q (s.violate .badSlot))
    (hk : ∀ a i, s.slot a = some i → Ends stops (k a i) Q) : Ends stops (checkLive s b k) Q := by
  unfold State.isLive at hb
  unfold checkLive
  split
  · next hn => exact hb (by simp [hn])
  · next a ha =>
    split
    · next hn => exact hb (by simp [ha, hn])
    · next i hi => exact hk a i hi

theorem ends_withInstance {s : State} {a : Slot} {k : Instance → Out} (h : stops ∨ s.slot a ≠ none)
    (hk : ∀ i, s.slot a = some i → Ends stops (k i) Q) : Ends stops (withInstance s a k) Q := by
  unfold withInstance
  split
  · next hn => exact h.resolve_right (not_not_intro hn)
  · next i hi => exact hk i hi

theorem ends_withActive {s : State} {k : Slot → Instance → Out}
    (h : stops ∨ ∃ a, s.active = some a ∧ s.slot a ≠ none)
    (hk : ∀ a i, s.active = some a → s.slot a = some i → Ends stops (k a i) Q) : Ends stops (withActive s k) Q := by
  unfold withActive
  split
  · next hn => exact h.resolve_right (by simp [hn])
  · next a ha => exact ends_withInstance (h.imp_right (by simp [ha])) fun i hi => hk a i ha hi

theorem ends_withContext {s : State} {k : Ctx → Out} (h : stops ∨ s.wctx ≠ .poison)
    (hk : ∀ c, s.wctx = .live c → Ends stops (k c) Q) : Ends stops (withContext s k) Q := by
  unfold withContext
  split
  · next hn => exact h.resolve_right (not_not_intro hn)
  · next c hc => exact hk c hc

theorem ends_doOpen {s : State} {a : Slot} {k : State → Out} (h : stops ∨ s.slot a ≠ none)
    (hk : ∀ i, s.slot a = some i → Ends stops (k (opened s a i)) Q) : Ends stops (doOpen s a k) Q :=
  ends_withInstance h hk

theorem ends_doClose {s : State} {k : State → Out}
    (h : stops ∨ ∃ a, s.active = some a ∧ s.slot a ≠ none ∧ s.wctx ≠ .poison)
    (hk : ∀ a i c, s.active = some a → s.slot a = some i → s.wctx = .live c → Ends stops (k (closed s a i c)) Q) :
    Ends stops (doClose s k) Q :=
  ends_withActive (h.imp_right fun ⟨a, ha, hi, _⟩ => ⟨a, ha, hi⟩) fun a i ha hi =>
    ends_withContext (h.imp_right fun ⟨_, _, _, hc⟩ => hc) fun c hc => hk a i c ha hi hc

/-- The end of CREATE is CLOSE of the new slot (R100). -/
theorem ends_createEnd {s : State} {a : Slot} (h : stops ∨ s.slot a ≠ none ∧ s.wctx ≠ .poison)
    (hk : ∀ i c, s.slot a = some i → s.wctx = .live c → Q ((closed s a i c).setRes 0#32)) :
    Ends stops (createEnd a s) Q :=
  ends_withInstance (h.imp_right And.left) fun i hi =>
    ends_withContext (h.imp_right And.right) fun c hc => hk i c hi hc

theorem ends_execDestroy {s : State} (hv : s.active ≠ none → Q (s.violate .destroyActive))
    (hk : s.active = none → Q (((s.setSlots (Vector.replicate Config.maxCpu none)).setCount 0#32).setRes 0#32)) :
    Ends stops (execDestroy s) Q := by
  unfold execDestroy
  split
  · next ha => exact hv ha
  · next ha => exact hk (not_ne_iff.1 ha)

/-! SCAN (R215): a condition that the record of each live slot keeps. -/

theorem ends_scanRecord {nest : Nest} {write : Bool} {a : Slot} {i : Instance} {s : State} {k : State → Out}
    (hc : Ends stops (snapCommands nest (nextSnap s a).1.commands
      ((nextSnap s a).2.log (.snap (Config.snapNaming.name a) i.rb i.total i.segment write)))
      fun t => R t ∧ (stops ∨ t.slot a ≠ none))
    (hput : write = true → ∀ t j, R t → t.slot a = some j → R (t.setSlot a (some (j.restore (nextSnap s a).1))))
    (hk : ∀ t, R t → Ends stops (k t) Q) : Ends stops (scanRecord nest write a i s k) Q := by
  refine ends_andThen.2 (hc.mono fun t ⟨ht, hlive⟩ => ?_)
  split
  · next hw => exact ends_withInstance hlive fun j hj => hk _ (hput hw t j ht hj)
  · exact hk t ht

theorem ends_scanSlots {nest : Nest} {write : Bool} (hres : ∀ s r, Q s → Q (s.setRes r))
    (hrec : ∀ s a i k, Q s → s.slot a = some i → (∀ t, Q t → Ends stops (k t) Q) →
      Ends stops (scanRecord nest write a i s k) Q)
    (slots : List Slot) : ∀ s, Q s → Ends stops (scanSlots nest write slots s) Q := by
  induction slots with
  | nil => exact fun s hs => hres s _ hs
  | cons a rest ih =>
    intro s hs
    cases hi : s.slot a with
    | none => rw [scanSlots_cons_of_absent _ _ hi]; exact ih s hs
    | some i => rw [scanSlots_cons_of_live _ _ hi]; exact hrec s a i _ hs hi ih

end

@[simp] theorem writeMapped_active (o : Option HostAddr) (data : Byte) (s : State) :
    (writeMapped o data s).active = s.active := by
  cases o <;> rfl

@[simp] theorem writeViews_active (i : Instance) (addr : Addr) (data : Byte) (s : State) :
    (writeViews i addr data s).active = s.active := by
  simp [writeViews]

/-! The access commands: what they keep while handlers keep it. -/

/-- `P` is kept by what an access command is made of, a handler call above all (R144 to R151). -/
structure Serving (stops : Prop) (nest : Nest) (P : State → Prop) : Prop where
  log : ∀ s e, P s → P (s.log e)
  res : ∀ s r, P s → P (s.setRes r)
  poke : ∀ s h v, P s → P (s.pokeHost h v)
  noInit : ∀ s, P s → s.count = 0#32 → P (s.violate .noInit)
  noActive : ∀ s, P s → s.active = none → P (s.violate .noActive)
  live : stops ∨ ∀ s a, P s → s.active = some a → s.slot a ≠ none
  handler : ∀ s id sel a d, P s → s.active ≠ none →
    Ends stops (handlerActs nest (nextHandler s id sel a).1.acts ((nextHandler s id sel a).2.log (.cb id sel a d)))
      fun u => (u.active = s.active → P u) ∧ (u.active ≠ s.active → P (u.violate .activeChanged))

namespace Serving
variable {stops : Prop} {nest : Nest} {P : State → Prop} (h : Serving stops nest P)
include h

theorem common {s : State} {k : Slot → Out} (hs : P s) (hk : ∀ a, s.active = some a → Ends stops (k a) P) :
    Ends stops (commonChecks s k) P :=
  ends_commonChecks (h.noInit s hs) (h.noActive s hs) hk

theorem active {s : State} {a : Slot} {k : Slot → Instance → Out} {Q : State → Prop} (hs : P s)
    (ha : s.active = some a) (hk : ∀ i, s.slot a = some i → Ends stops (k a i) Q) : Ends stops (withActive s k) Q :=
  ends_withActive (h.live.imp_right fun hl => ⟨a, ha, hl s a hs ha⟩) fun b i hb hi => by
    obtain rfl : a = b := by simpa [ha] using hb
    exact hk i hi

theorem hwrite (s : State) (g : HostAddr) (v : Byte) (hs : P s) : P (s.hwrite g v) :=
  h.log _ _ (h.poke s g v hs)

theorem call {s : State} {id : HandlerId} {sel : CbIndex} {a : Addr} {d : Option Byte} {k : Byte → State → Out}
    (hs : P s) (ha : s.active ≠ none) (hk : ∀ v t, P t → t.active = s.active → Ends stops (k v t) P) :
    Ends stops (callHandler nest id sel a d s k) P := by
  refine ends_andThen.2 ((h.handler s id sel a d hs ha).mono fun u ⟨hsame, hchanged⟩ => ?_)
  split
  · next he => exact hk _ u (hsame he) he
  · next hne => exact hchanged hne

theorem paged {s : State} {a : Slot} {table : Instance → PageTable} {sel : CbIndex} {addr : Addr}
    {k : Byte → State → Out} (hs : P s) (ha : s.active = some a)
    (hk : ∀ v t, P t → t.active = s.active → Ends stops (k v t) P) :
    Ends stops (pagedRead nest table sel addr s k) P := by
  refine h.active hs ha fun i _ => ?_
  split
  · exact hk _ _ (h.log s _ hs) rfl
  · split
    · exact h.call hs (by simp [ha]) hk
    · exact hk _ s hs rfl

theorem readByte (addr : Addr) (s : State) (hs : P s) : Ends stops (readByteBy nest addr s) P :=
  h.common hs fun _ ha => h.paged hs ha fun _ t ht _ => h.res t _ ht

theorem readArg (addr : Addr) (s : State) (hs : P s) : Ends stops (readArgBy nest addr s) P :=
  h.common hs fun _ ha => h.paged hs ha fun _ t ht _ => h.res t _ ht

theorem readOp (addr : Addr) (s : State) (hs : P s) : Ends stops (readOpBy nest addr s) P :=
  h.common hs fun _ ha => h.paged hs ha fun _ t ht he =>
    h.active ht (he.trans ha) fun _ _ => h.res t _ ht

theorem writeByte (addr : Addr) (data : Byte) (s : State) (hs : P s) :
    Ends stops (writeByteBy nest addr data s) P := by
  refine h.common hs fun a ha => h.active hs ha fun i _ => ?_
  split
  · exact h.res _ _ (h.hwrite s _ _ hs)
  · split
    · exact h.call hs (by simp [ha]) fun _ t ht _ => h.res t _ ht
    · exact h.res s _ hs

theorem readPort (addr : Addr) (s : State) (hs : P s) : Ends stops (readPortBy nest addr s) P := by
  refine h.common hs fun a ha => h.active hs ha fun i _ => ?_
  split
  · exact h.call hs (by simp [ha]) fun _ t ht _ => h.res t _ ht
  · exact h.res s _ hs

theorem writePort (addr : Addr) (data : Byte) (s : State) (hs : P s) :
    Ends stops (writePortBy nest addr data s) P := by
  refine h.common hs fun a ha => h.active hs ha fun i _ => ?_
  split
  · exact h.call hs (by simp [ha]) fun _ t ht _ => h.res t _ ht
  · exact h.res s _ hs

theorem writeMapped (o : Option HostAddr) (data : Byte) (s : State) (hs : P s) : P (writeMapped o data s) := by
  cases o with
  | none => exact hs
  | some g => exact h.hwrite s g data hs

theorem writeViews (i : Instance) (addr : Addr) (data : Byte) (s : State) (hs : P s) : P (writeViews i addr data s) :=
  h.writeMapped _ _ _ (h.writeMapped _ _ _ (h.writeMapped _ _ s hs))

theorem writeRom (addr : Addr) (data : Byte) (s : State) (hs : P s) : Ends stops (writeRomBy nest addr data s) P := by
  refine h.common hs fun a ha => h.active hs ha fun i _ => ?_
  have hw := h.writeViews i addr data s hs
  split
  · exact h.call hw (by simp [ha]) fun _ t ht _ => h.res t _ ht
  · exact h.res _ _ hw

end Serving

/-- The commands of R144 to R150. -/
def isAccess : Instr → Bool
  | .readByte _ | .writeByte _ _ | .readOp _ | .readArg _ | .readPort _ | .writePort _ _ | .writeRom _ _ => true
  | _ => false

theorem Serving.access {stops : Prop} {nest : Nest} {P : State → Prop} (h : Serving stops nest P) {i : Instr}
    (hi : isAccess i = true) {s : State} (hs : P s) : Ends stops (nestedCommand nest i s) P := by
  cases i with
  | readByte addr => exact h.readByte addr s hs
  | writeByte addr data => exact h.writeByte addr data s hs
  | readOp addr => exact h.readOp addr s hs
  | readArg addr => exact h.readArg addr s hs
  | readPort addr => exact h.readPort addr s hs
  | writePort addr data => exact h.writePort addr data s hs
  | writeRom addr data => exact h.writeRom addr data s hs
  | _ => cases hi

/-! Engine behaviours: what they keep, bus accesses included. -/

/-- `P` is kept by what an engine behaviour does while a slot is active (R121 to R130): its writes of WCTX, its bus
accesses, and the violation of an illegal one unless the scripts make none. -/
structure Running (stops : Prop) (nest : Nest) (P : State → Prop) : Prop extends Serving stops nest P where
  context : ∀ s c, P s → P (s.setWctx (.live c))
  script : ∀ s r call c, P s → P (nextEngine s r call c).2
  legal : (∀ s r call c, P s → (nextEngine s r call c).1.acts.all EngineAct.isLegal = true) ∨
    ∀ s, P s → P (s.violate .badCommand)
  ready : stops ∨ ∀ s, P s → s.active ≠ none ∧ s.wctx ≠ .poison

namespace Running
variable {stops : Prop} {nest : Nest} {P Q : State → Prop} (h : Running stops nest P)
include h

theorem bus {kind : BitVec 3} (hl : kind.toNat < 6 ∨ ∀ s, P s → P (s.violate .badCommand)) (addr : Addr)
    (wdata : Byte) {s : State} (hs : P s) : Ends stops (busCommand nest kind addr wdata s) P := by
  unfold busCommand
  split
  · exact h.readByte addr s hs
  · exact h.writeByte addr wdata s hs
  · exact h.readOp addr s hs
  · exact h.readArg addr s hs
  · exact h.readPort addr s hs
  · exact h.writePort addr wdata s hs
  · have hge : ¬ kind.toNat < 6 := by grind
    exact hl.resolve_left hge s hs

theorem acts {acts : List EngineAct}
    (hl : acts.all EngineAct.isLegal = true ∨ ∀ s, P s → P (s.violate .badCommand)) :
    ∀ s, P s → Ends stops (engineActs nest acts s) P := by
  induction acts with
  | nil => exact fun s hs => hs
  | cons act rest ih =>
    intro s hs
    simp only [List.all_cons, Bool.and_eq_true] at hl
    have hrest := ih (hl.imp_left And.right)
    cases act with
    | setContext c => exact hrest _ (h.context s c hs)
    | access kind addr wdata =>
      have hkind := hl.imp_left fun hl => of_decide_eq_true hl.1
      exact ends_andThen.2 (ends_andThen.2 ((h.bus hkind addr wdata hs).mono fun t ht => hrest _ (h.log t _ ht)))

theorem invoke {call : EngineCall} {s : State} {k : Cycles → State → Out} (hs : P s)
    (hk : ∀ c t, P t → Ends stops (k c t) Q) : Ends stops (invoke nest call s k) Q := by
  refine ends_withActive ?_ fun a i _ _ => ends_withContext (h.ready.imp_right fun hr => (hr s hs).2) fun c _ => ?_
  · refine (Classical.em stops).imp_right fun hn => ?_
    obtain ⟨a, ha⟩ := Option.ne_none_iff_exists'.1 (h.ready.resolve_left hn s hs).1
    exact ⟨a, ha, h.live.resolve_left hn s a hs ha⟩
  · have hstart := h.log _ (.ectl a (routineOf i.variant call) call) (h.script s (routineOf i.variant call) call c hs)
    exact ends_andThen.2 ((h.acts (h.legal.imp_left fun hl => hl s _ call c hs) _ hstart).mono (hk _))

theorem invokeVoid {call : EngineCall} {s : State} {k : State → Out} (hs : P s)
    (hk : ∀ t, P t → Ends stops (k t) Q) : Ends stops (invokeVoid nest call s k) Q :=
  h.invoke hs fun _ => hk

/-- `Apply(line, status)` is engine behaviours one after another (R181 to R185). -/
theorem applyIrq {line : BitVec 8} {status : IrqStatus} {s : State} {k : State → Out} (hs : P s)
    (hk : ∀ t, P t → Ends stops (k t) Q) : Ends stops (applyIrq nest line status s k) Q := by
  cases status with
  | none => exact h.invokeVoid hs hk
  | ack => exact h.invokeVoid hs hk
  | auto =>
    simp only [Machine.applyIrq]
    split
    · exact h.invokeVoid hs fun t ht => h.invokeVoid ht hk
    · exact h.invokeVoid hs fun t ht => h.invokeVoid ht fun u hu => h.invokeVoid hu fun v hv => h.invokeVoid hv hk
  | hold => exact h.invokeVoid hs fun t ht => h.invokeVoid ht hk

end Running

/-- Nothing is claimed of next states and stops: every engine behaviour keeps that. -/
theorem running_true (nest : Nest) : Running True nest fun _ => True where
  log _ _ _ := trivial
  res _ _ _ := trivial
  poke _ _ _ _ := trivial
  noInit _ _ _ := trivial
  noActive _ _ _ := trivial
  live := .inl trivial
  handler _ _ _ _ _ _ _ := ends_true_iff.2 fun _ _ => ⟨fun _ => trivial, fun _ => trivial⟩
  context _ _ _ := trivial
  script _ _ _ _ _ := trivial
  legal := .inr fun _ _ => trivial
  ready := .inl trivial

/-! Every command but CLOSE and DESTROY. -/

/-- `P` is kept by what a command other than CLOSE and DESTROY is made of; while an engine behaviour runs a condition of
its own, which implies `P`, is kept. The bracket of R186 and the init of CREATE are taken whole. -/
structure Regime (stops : Prop) (nest : Nest) (P : State → Prop) : Prop extends Serving stops nest P where
  violate : ∀ s v, P s → P (s.violate v)
  cur : ∀ s v, P s → P (s.setCur v)
  put : ∀ s a i j, P s → s.slot a = some i → P (s.setSlot a (some j))
  zero : ∀ s, P s → P (s.setSlots (zeroTotals s.slots))
  opens : ∀ s a i, P s → s.active = none → s.slot a = some i → P (opened s a i)
  context : stops ∨ ∀ s, P s → s.active ≠ none → s.wctx ≠ .poison
  engine : ∀ s, P s → s.active ≠ none → ∃ E : State → Prop, E s ∧ Running stops nest E ∧ ∀ t, E t → P t
  bracket : ∀ s a line status, P s → s.slot a ≠ none → Ends stops (bracketed nest a line status s) P
  create : ∀ s a v, P s → s.active = none →
    Ends stops (doOpen (createFilled s a v) a fun t => invokeVoid nest .init t (createEnd a)) P
  driver : ∀ s a i e, P s → s.slot a = some i →
    Ends stops (snapCommands nest (nextSnap s a).1.commands ((nextSnap s a).2.log e))
      fun t => P t ∧ (stops ∨ t.slot a ≠ none)

namespace Regime
variable {stops : Prop} {nest : Nest} {P : State → Prop} (h : Regime stops nest P)
include h

theorem init {s : State} {k : Out} (hs : P s) (hk : Ends stops k P) : Ends stops (checkInit s k) P :=
  ends_checkInit (h.noInit s hs) fun _ => hk

/-- A command on the active instance that invokes its engine. -/
theorem engineCommand {s : State} {o : Out} (hs : P s)
    (ho : ∀ E : State → Prop, E s → Running stops nest E → (∀ t, E t → P t) → Ends stops o P) :
    Ends stops (commonChecks s fun _ => o) P :=
  h.common hs fun a ha =>
    let ⟨E, hE, hrun, hEP⟩ := h.engine s hs (by simp [ha])
    ho E hE hrun hEP

theorem configure {s : State} {a : Slot} {f : Instance → Instance} (hs : P s) (ha : s.active = some a) :
    Ends stops (configure s f) P :=
  h.active hs ha fun i hi => h.res _ _ (h.put s a i _ hs hi)

theorem counterRead {event : Slot → PortEvent} {value : Ctx → Result} (s : State) (hs : P s) :
    Ends stops (commonChecks s fun a => withContext s fun c => finish (s.log (event a)) (value c)) P :=
  h.common hs fun _ ha => ends_withContext (h.context.imp_right fun hc => hc s hs (by simp [ha])) fun _ _ =>
    h.res _ _ (h.log s _ hs)

theorem createBy (b v : BitVec 8) (s : State) (hs : P s) : Ends stops (createBy nest b v s) P := by
  unfold Machine.createBy
  split
  · exact h.violate s _ hs
  · split
    · exact h.violate s _ hs
    · next hact =>
      split
      · exact h.violate s _ hs
      · exact h.create s _ _ hs (not_ne_iff.1 hact)

theorem openSlot (b : BitVec 8) (s : State) (hs : P s) : Ends stops (execOpen b s) P := by
  refine h.init hs (ends_checkLive (fun _ => h.violate s _ hs) fun a i hi => ?_)
  split
  · exact h.violate s _ hs
  · next hact =>
    exact ends_doOpen (.inr (by simp [hi])) fun j hj => h.res _ _ (h.opens s a j hs (not_ne_iff.1 hact) hj)

theorem setIrqx (b line : BitVec 8) (status : IrqStatus) (s : State) (hs : P s) :
    Ends stops (setIrqxBy nest b line status s) P := by
  refine h.init hs (ends_checkLive (fun _ => h.violate s _ hs) fun a i hi => ?_)
  split
  · next ha =>
    obtain ⟨E, hE, hrun, hEP⟩ := h.engine s hs (by simp [ha])
    exact hrun.applyIrq hE fun t ht => h.res t _ (hEP t ht)
  · exact h.bracket s a line status hs (by simp [hi])

theorem scan (driver write : Bool) (s : State) (hs : P s) : Ends stops (scanBy nest driver write s) P := by
  refine h.init hs ?_
  split
  · exact ends_scanSlots h.res (fun t a i k ht hi hk =>
      ends_scanRecord (h.driver t a i _ ht hi) (fun _ u j hu hj => h.put u a j _ hu hj) hk) _ s hs
  · exact h.res s _ hs

theorem command {i : Instr} (hclose : i ≠ .close) (hdestroy : i ≠ .destroy) {s : State} (hs : P s) :
    Ends stops (nestedCommand nest i s) P := by
  cases i with
  | create b v => exact h.createBy b v s hs
  | destroy => exact absurd rfl hdestroy
  | openSlot b => exact h.openSlot b s hs
  | close => exact absurd rfl hclose
  | getActive => exact h.init hs (h.res s _ hs)
  | getPc => exact h.counterRead s hs
  | getPpc => exact h.counterRead s hs
  | cpuReset => exact h.engineCommand hs fun E hE hrun hEP => hrun.invokeVoid hE fun t ht => h.res t _ (hEP t ht)
  | mapRange buffer start stop kinds => exact h.common hs fun a ha => h.configure hs ha
  | setMask mask =>
    refine h.common hs fun a ha => ?_
    split
    · exact h.configure hs ha
    · exact h.violate s _ hs
  | setCb sel handler =>
    simp only [nestedCommand, execSetCb]
    split
    · exact h.violate s _ hs
    · exact h.common hs fun a ha => h.configure hs ha
  | setRemap index value => exact h.common hs fun a ha => h.configure hs ha
  | setIrq line status =>
    exact h.engineCommand hs fun E hE hrun hEP => hrun.applyIrq hE fun t ht => h.res t _ (hEP t ht)
  | setIrqx b line status => exact h.setIrqx b line status s hs
  | newFrame => exact h.init hs (h.res _ _ (h.cur _ _ (h.zero s hs)))
  | run n =>
    exact h.engineCommand hs fun E hE hrun hEP => hrun.invoke hE fun c t ht => h.res _ _ (h.cur t _ (hEP t ht))
  | idle n => exact h.common hs fun a ha => h.res _ _ (h.cur s _ hs)
  | getCur => exact h.init hs (h.res s _ hs)
  | getSaved b => exact h.init hs (ends_checkLive (fun _ => h.violate s _ hs) fun a i hi => h.res s _ hs)
  | scan driver write => exact h.scan driver write s hs
  | _ => exact h.access rfl hs

end Regime
end Sys2Proof.Machine
end

section
/-! The single-active invariant (R26) as long as VIOL is none. -/

namespace Sys2Proof.Machine

theorem State.singleActive_of_none {s : State} (h : s.active = none) : s.SingleActive ↔ s.wctx = .poison := by
  simp [State.SingleActive, h]

theorem State.singleActive_of_some {s : State} {a : Slot} (h : s.active = some a) :
    s.SingleActive ↔ s.slot a ≠ none ∧ s.wctx ≠ .poison := by
  simp [State.SingleActive, h]

/-- A change that keeps ACTIVE, WCTX and every live slot live keeps the invariant. -/
theorem State.SingleActive.of_live {s t : State} (h : s.SingleActive) (ha : t.active = s.active) (hc : t.wctx = s.wctx)
    (hl : ∀ a, s.slot a ≠ none → t.slot a ≠ none) : t.SingleActive := by
  cases hs : s.active with
  | none =>
    rw [State.singleActive_of_none hs] at h
    exact (State.singleActive_of_none (ha.trans hs)).2 (hc.trans h)
  | some a =>
    obtain ⟨hi, hw⟩ := (State.singleActive_of_some hs).1 h
    exact (State.singleActive_of_some (ha.trans hs)).2 ⟨hl a hi, hc ▸ hw⟩

/-- OPEN and CLOSE establish the invariant, whatever held before (R102, R103). -/
theorem opened_singleActive {s : State} {a : Slot} {i : Instance} (hi : s.slot a = some i) :
    (opened s a i).SingleActive :=
  (State.singleActive_of_some rfl).2 ⟨by simp [hi], by simp⟩

theorem closed_singleActive (s : State) (a : Slot) (i : Instance) (c : Ctx) : (closed s a i c).SingleActive :=
  rfl

/-- DESTROY empties the slots while none is active (R101). -/
theorem destroyed_singleActive {s : State} (h : s.SingleActive) (ha : s.active = none) :
    (((s.setSlots (Vector.replicate Config.maxCpu none)).setCount 0#32).setRes 0#32).SingleActive := by
  simpa [State.SingleActive, ha] using h

theorem State.setSlot_live {s : State} {a b : Slot} {i : Instance} (h : s.slot b ≠ none) :
    (s.setSlot a (some i)).slot b ≠ none := by
  rw [State.setSlot_slot]
  split
  · simp
  · exact h

theorem zeroTotals_slot (s : State) (a : Slot) :
    (s.setSlots (zeroTotals s.slots)).slot a = (s.slot a).map fun i => { i with total := 0#32 } := by
  simp [State.slot, zeroTotals]

theorem State.setWctx_singleActive {s : State} (h : s.SingleActive) (ha : s.active ≠ none) (c : Ctx) :
    (s.setWctx (.live c)).SingleActive := by
  obtain ⟨a, ha⟩ := Option.ne_none_iff_exists'.1 ha
  obtain ⟨hlive, -⟩ := (State.singleActive_of_some ha).1 h
  exact (State.singleActive_of_some (s := s.setWctx (.live c)) ha).2 ⟨hlive, by simp⟩

/-- The invariant, as long as no violation is recorded (R26). -/
def State.SingleUnlessViol (s : State) : Prop := s.viol = none → s.SingleActive

/-- The same while an engine behaviour runs: a slot is active. -/
def State.RunningUnlessViol (s : State) : Prop := s.viol = none → s.SingleActive ∧ s.active ≠ none

theorem State.violate_viol_ne_none (s : State) (v : Violation) : (s.violate v).viol ≠ none :=
  recordViolation_ne_none _ _

theorem singleUnlessViol_violate (s : State) (v : Violation) : (s.violate v).SingleUnlessViol :=
  fun h => absurd h (s.violate_viol_ne_none v)

theorem runningUnlessViol_violate (s : State) (v : Violation) : (s.violate v).RunningUnlessViol :=
  fun h => absurd h (s.violate_viol_ne_none v)

/-- `P` is kept by the nested commands that `nest` serves. -/
def Nest.Keeps (nest : Nest) (P : State → Prop) : Prop := ∀ cw s, P s → Ends True (nest cw s) P

theorem handlerActs_keeps {nest : Nest} {P : State → Prop} (hn : nest.Keeps P)
    (hpoke : ∀ s h v, P s → P (s.pokeHost h v)) (acts : List HandlerAct) :
    ∀ s, P s → Ends True (handlerActs nest acts s) P := by
  induction acts with
  | nil => exact fun _ hs => hs
  | cons act rest ih =>
    intro s hs
    cases act with
    | command cw => exact ends_andThen.2 ((hn cw s hs).mono ih)
    | hostWrite g v => exact ih _ (hpoke s g v hs)

theorem snapCommands_keeps {nest : Nest} {P : State → Prop} (hn : nest.Keeps P) (cws : List CommandWord) :
    ∀ s, P s → Ends True (snapCommands nest cws s) P := by
  induction cws with
  | nil => exact fun _ hs => hs
  | cons cw rest ih => exact fun s hs => ends_andThen.2 ((hn cw s hs).mono ih)

theorem nextHandler_singleUnlessViol {s : State} (hs : s.SingleUnlessViol) (id : HandlerId) (sel : CbIndex) (a : Addr) :
    (nextHandler s id sel a).2.SingleUnlessViol :=
  fun hv => (hs (by simpa using hv)).of_live (by simp) (by simp) fun b => by simp

/-- The bracket of SETIRQX ends in a CLOSE or an OPEN, whatever came before (R186). -/
theorem bracketed_singleActive (nest : Nest) (a : Slot) (line : BitVec 8) (status : IrqStatus) (s : State) :
    Ends True (bracketed nest a line status s) State.SingleActive := by
  have happly (t : State) {k : State → Out} (hk : ∀ u, Ends True (k u) State.SingleActive) :
      Ends True (applyIrq nest line status t k) State.SingleActive :=
    (running_true nest).applyIrq trivial fun u _ => hk u
  unfold bracketed
  split
  · exact ends_doOpen (.inl trivial) fun i _ => happly _ fun u => ends_doClose (.inl trivial) fun b j c _ _ _ =>
      closed_singleActive u b j c
  · exact ends_doClose (.inl trivial) fun _ _ _ _ _ _ => ends_doOpen (.inl trivial) fun _ _ => happly _ fun u =>
      ends_doClose (.inl trivial) fun _ _ _ _ _ _ => ends_doOpen (.inl trivial) fun j hj => opened_singleActive hj

section
variable {nest : Nest} (hn : nest.Keeps State.SingleUnlessViol)
include hn

/-- A handler keeps what its nested commands keep. That ACTIVE is then what it was, the check at its answer says
(R239). -/
theorem handler_keeps_singleUnlessViol {s : State} (hs : s.SingleUnlessViol) (id : HandlerId) (sel : CbIndex) (a : Addr)
    (d : Option Byte) :
    Ends True (handlerActs nest (nextHandler s id sel a).1.acts ((nextHandler s id sel a).2.log (.cb id sel a d)))
      State.SingleUnlessViol :=
  handlerActs_keeps hn (fun _ _ _ h => h) _ _ (nextHandler_singleUnlessViol hs id sel a)

theorem serving_singleUnlessViol : Serving True nest State.SingleUnlessViol where
  log _ _ h := h
  res _ _ h := h
  poke _ _ _ h := h
  noInit s _ _ := singleUnlessViol_violate s _
  noActive s _ _ := singleUnlessViol_violate s _
  live := .inl trivial
  handler _ id sel a d hs _ :=
    (handler_keeps_singleUnlessViol hn hs id sel a d).mono fun u hu =>
      ⟨fun _ => hu, fun _ => singleUnlessViol_violate u _⟩

theorem running_runningUnlessViol : Running True nest State.RunningUnlessViol where
  log _ _ h := h
  res _ _ h := h
  poke _ _ _ h := h
  noInit s _ _ := runningUnlessViol_violate s _
  noActive s _ _ := runningUnlessViol_violate s _
  live := .inl trivial
  handler s id sel a d hs ha :=
    (handler_keeps_singleUnlessViol hn (fun hv => (hs hv).1) id sel a d).mono fun u hu =>
      ⟨fun he hv => ⟨hu hv, he ▸ ha⟩, fun _ => runningUnlessViol_violate u _⟩
  context s c hs hv := ⟨State.setWctx_singleActive (hs hv).1 (hs hv).2 c, (hs hv).2⟩
  script _ r call c hs hv := by
    obtain ⟨h1, h2⟩ := hs (by simpa using hv)
    exact ⟨h1.of_live (by simp) (by simp) (by simp), by simpa using h2⟩
  legal := .inr fun s _ => runningUnlessViol_violate s _
  ready := .inl trivial

theorem regime_singleUnlessViol : Regime True nest State.SingleUnlessViol where
  toServing := serving_singleUnlessViol hn
  violate s v _ := singleUnlessViol_violate s v
  cur _ _ h := h
  put _ _ _ _ hs _ hv := (hs hv).of_live rfl rfl fun _ => State.setSlot_live
  zero s hs hv := (hs hv).of_live rfl rfl fun b => by simp [zeroTotals_slot]
  opens s a i _ _ hi _ := opened_singleActive hi
  context := .inl trivial
  engine s hs ha :=
    ⟨State.RunningUnlessViol, fun hv => ⟨hs hv, ha⟩, running_runningUnlessViol hn, fun _ ht hv => (ht hv).1⟩
  bracket s a line status _ _ := (bracketed_singleActive nest a line status s).mono fun _ ht _ => ht
  create s a v _ _ :=
    ends_doOpen (.inl trivial) fun i _ => (running_true nest).invokeVoid trivial fun t _ =>
      ends_createEnd (.inl trivial) fun j c _ _ _ => closed_singleActive t a j c
  driver s a i e hs _ :=
    (snapCommands_keeps hn _ _ fun hv => (hs (by simpa using hv)).of_live (by simp) (by simp) fun b => by simp).mono
      fun t ht => ⟨ht, .inl trivial⟩

theorem nestedCommand_keeps_singleUnlessViol (i : Instr) {s : State} (hs : s.SingleUnlessViol) :
    Ends True (nestedCommand nest i s) State.SingleUnlessViol := by
  have h := regime_singleUnlessViol hn
  by_cases hc : i = .close
  · subst hc
    exact h.common hs fun a _ => ends_doClose (.inl trivial) fun b j c _ _ _ _ => closed_singleActive s b j c
  by_cases hd : i = .destroy
  · subst hd
    exact ends_execDestroy (fun _ => h.violate s _ hs) fun ha hv => destroyed_singleActive (hs hv) ha
  exact h.command hc hd hs

end

theorem serveNested_keeps_singleUnlessViol (d : Nat) : (serveNested d).Keeps State.SingleUnlessViol := by
  induction d with
  | zero => exact fun _ _ _ => trivial
  | succ d ih =>
    intro cw s hs
    refine ends_andThen.2 (Ends.mono (Q := State.SingleUnlessViol) ?_ fun t ht => ht)
    cases decode cw with
    | ok i => exact nestedCommand_keeps_singleUnlessViol ih i hs
    | rejected _ => exact singleUnlessViol_violate s _

/-- Settles O14: every command, nested ones included, keeps the invariant as long as no violation is recorded. -/
theorem stepKeepsSingleActive : Obligations.StepKeepsSingleActive := by
  intro s t hs ht hv
  have hs : s.SingleUnlessViol := fun _ => hs
  rcases step_eq_next.1 ht with ⟨-, rfl⟩ | ⟨cw, rest, -, h⟩ | ⟨a, v, rest, -, rfl⟩ | ⟨rest, -, rfl⟩
  · exact hs hv
  · rw [runWord_eq_nestedWord] at h
    exact ends_true_iff.1 (serveNested_keeps_singleUnlessViol (_ + 1) cw (s.setHostIn rest) hs) t h hv
  · exact hs hv
  · exact (State.singleActive_of_none rfl).2 rfl

end Sys2Proof.Machine
end

section
/-! Completion under the contract of R135: no nested CLOSE or DESTROY. -/

namespace Sys2Proof.Machine

/-! The contract of the queued scripts. -/

theorem State.contractKept_iff {s : State} :
    s.contractKept = true ↔
      (∀ h ∈ s.env.handlerIn, ∀ cw, .command cw ∈ h.acts → keepsBracket cw = true) ∧
        ∀ d ∈ s.env.snapIn, ∀ cw ∈ d.commands, keepsBracket cw = true := by
  simp only [State.contractKept, Bool.and_eq_true, List.all_eq_true]
  refine and_congr_left fun _ => forall₂_congr fun h _ => ⟨fun hk cw hcw => hk _ hcw, fun hk act hact => ?_⟩
  cases act with
  | command cw => exact hk cw hact
  | hostWrite g v => rfl

theorem State.contractKept_of_mem {s t : State} (h : s.contractKept = true)
    (hh : ∀ x ∈ t.env.handlerIn, x ∈ s.env.handlerIn) (hd : ∀ x ∈ t.env.snapIn, x ∈ s.env.snapIn) :
    t.contractKept = true := by
  obtain ⟨h1, h2⟩ := State.contractKept_iff.1 h
  exact State.contractKept_iff.2 ⟨fun x hx => h1 x (hh x hx), fun x hx => h2 x (hd x hx)⟩

theorem nextHandler_contractKept {s : State} (h : s.contractKept = true) (id : HandlerId) (sel : CbIndex) (a : Addr) :
    (nextHandler s id sel a).2.contractKept = true := by
  rcases nextHandler_snd s id sel a with he | he <;> rw [he]
  · exact State.contractKept_of_mem h (fun _ => List.mem_of_mem_tail) fun _ hx => hx
  · exact h

theorem nextHandler_keepsBracket {s : State} (h : s.contractKept = true) (id : HandlerId) (sel : CbIndex) (a : Addr)
    (cw : CommandWord) (hcw : .command cw ∈ (nextHandler s id sel a).1.acts) : keepsBracket cw = true := by
  unfold nextHandler at hcw
  split at hcw
  · next e rest he => exact (State.contractKept_iff.1 h).1 e (by simp [he]) cw hcw
  · cases hcw

theorem nextSnap_contractKept {s : State} (h : s.contractKept = true) (a : Slot) :
    (nextSnap s a).2.contractKept = true := by
  rcases nextSnap_snd s a with he | he <;> rw [he]
  · exact State.contractKept_of_mem h (fun _ hx => hx) fun _ => List.mem_of_mem_tail
  · exact h

theorem nextSnap_keepsBracket {s : State} (h : s.contractKept = true) (a : Slot) (cw : CommandWord)
    (hcw : cw ∈ (nextSnap s a).1.commands) : keepsBracket cw = true := by
  unfold nextSnap at hcw
  split at hcw
  · next d rest he => exact (State.contractKept_iff.1 h).2 d (by simp [he]) cw hcw
  · cases hcw

theorem nextEngine_contractKept {s : State} (h : s.contractKept = true) (r : Routine) (call : EngineCall) (c : Ctx) :
    (nextEngine s r call c).2.contractKept = true :=
  State.contractKept_of_mem h (by simp) (by simp)

/-! What a command keeps. -/

theorem closed_live {s : State} {a b : Slot} {i : Instance} {c : Ctx} (h : s.slot b ≠ none) :
    (closed s a i c).slot b ≠ none :=
  State.setSlot_live h

/-- `t` is a state that a command which keeps the contract may leave behind when it begins in `s`: the single-active
invariant and the contract hold, the active slot is still active, the live slots are still live. -/
structure Kept (s t : State) : Prop where
  single : t.SingleActive
  contract : t.contractKept = true
  active : ∀ a, s.active = some a → t.active = some a
  live : ∀ a, s.slot a ≠ none → t.slot a ≠ none
  scripts : t.scripts ≤ s.scripts

namespace Kept
variable {s t u : State}

theorem refl (hs : s.SingleActive) (hc : s.contractKept = true) : Kept s s :=
  ⟨hs, hc, fun _ h => h, fun _ h => h, Nat.le_refl _⟩

theorem self (h : Kept s t) : Kept t t := .refl h.single h.contract

theorem trans (h : Kept s t) (g : Kept t u) : Kept s u :=
  ⟨g.single, g.contract, fun a ha => g.active a (h.active a ha), fun a ha => g.live a (h.live a ha),
    g.scripts.trans h.scripts⟩

/-- A state that agrees on ACTIVE, WCTX and the slots and queues no script. -/
theorem of_same (h : Kept s t) (ha : u.active = t.active) (hw : u.wctx = t.wctx)
    (hl : ∀ a, t.slot a ≠ none → u.slot a ≠ none) (hc : u.contractKept = true) (hsc : u.scripts ≤ t.scripts) :
    Kept s u :=
  h.trans ⟨h.single.of_live ha hw hl, hc, fun _ hx => ha.trans hx, hl, hsc⟩

theorem log (h : Kept s t) (e : PortEvent) : Kept s (t.log e) :=
  ⟨h.single, h.contract, h.active, h.live, h.scripts⟩
theorem setRes (h : Kept s t) (r : Result) : Kept s (t.setRes r) :=
  ⟨h.single, h.contract, h.active, h.live, h.scripts⟩
theorem setCur (h : Kept s t) (v : Cycles) : Kept s (t.setCur v) :=
  ⟨h.single, h.contract, h.active, h.live, h.scripts⟩
theorem poke (h : Kept s t) (g : HostAddr) (v : Byte) : Kept s (t.pokeHost g v) :=
  ⟨h.single, h.contract, h.active, h.live, h.scripts⟩
theorem violate (h : Kept s t) (v : Violation) : Kept s (t.violate v) :=
  ⟨h.single, h.contract, h.active, h.live, h.scripts⟩

theorem put (h : Kept s t) (a : Slot) (i : Instance) : Kept s (t.setSlot a (some i)) :=
  h.of_same rfl rfl (fun _ => State.setSlot_live) h.contract (Nat.le_refl _)

theorem zero (h : Kept s t) : Kept s (t.setSlots (zeroTotals t.slots)) :=
  h.of_same rfl rfl (fun a => by simp [zeroTotals_slot]) h.contract (Nat.le_refl _)

theorem handler (h : Kept s t) (id : HandlerId) (sel : CbIndex) (a : Addr) : Kept s (nextHandler t id sel a).2 :=
  h.of_same (by simp) (by simp) (by simp) (nextHandler_contractKept h.contract id sel a)
    (Change.handler t id sel a).scripts_le

theorem snap (h : Kept s t) (a : Slot) : Kept s (nextSnap t a).2 :=
  h.of_same (by simp) (by simp) (by simp) (nextSnap_contractKept h.contract a) (Change.snap t a).scripts_le

theorem engine (h : Kept s t) (r : Routine) (call : EngineCall) (c : Ctx) : Kept s (nextEngine t r call c).2 :=
  h.of_same (by simp) (by simp) (by simp) (nextEngine_contractKept h.contract r call c)
    (Change.engine t r call c).scripts_le

theorem context (h : Kept s t) (ha : t.active ≠ none) (c : Ctx) : Kept s (t.setWctx (.live c)) :=
  ⟨State.setWctx_singleActive h.single ha c, h.contract, h.active, h.live, h.scripts⟩

theorem active_ne_none (h : Kept s t) (ha : s.active ≠ none) : t.active ≠ none := by
  obtain ⟨a, ha⟩ := Option.ne_none_iff_exists'.1 ha
  simp [h.active a ha]

theorem ready (h : Kept s t) (ha : t.active ≠ none) : t.active ≠ none ∧ t.wctx ≠ .poison := by
  obtain ⟨a, ht⟩ := Option.ne_none_iff_exists'.1 ha
  exact ⟨ha, ((State.singleActive_of_some ht).1 h.single).2⟩

theorem closable (h : Kept s t) (ha : s.active ≠ none) :
    ∃ a, t.active = some a ∧ t.slot a ≠ none ∧ t.wctx ≠ .poison := by
  obtain ⟨a, ha⟩ := Option.ne_none_iff_exists'.1 ha
  exact ⟨a, h.active a ha, (State.singleActive_of_some (h.active a ha)).1 h.single⟩

theorem active_live {a : Slot} (h : Kept s t) (ha : t.active = some a) : t.slot a ≠ none ∧ t.wctx ≠ .poison :=
  (State.singleActive_of_some ha).1 h.single

/-- OPEN, which makes another slot active: what is kept from then on is kept from `opened s a i`. -/
theorem opened {a : Slot} {i : Instance} (h : Kept s s) (hi : s.slot a = some i) :
    Kept (opened s a i) (Machine.opened s a i) :=
  .refl (opened_singleActive hi) h.contract

theorem opens {a : Slot} {i : Instance} (h : Kept s t) (ha : t.active = none) (hi : t.slot a = some i) :
    Kept s (Machine.opened t a i) :=
  h.trans ⟨opened_singleActive hi, h.contract, by simp [ha], fun _ hb => hb, Nat.le_refl _⟩

/-- A bracket that began in `s`, where no slot was active, is closed (R100, R186). -/
theorem closed {a : Slot} {i : Instance} (h : Kept (Machine.opened s a i) t) (ha : s.active = none) (b : Slot)
    (j : Instance) (c : Ctx) : Kept s (Machine.closed t b j c) :=
  ⟨closed_singleActive t b j c, h.contract, by simp [ha], fun x hx => closed_live (h.live x hx), h.scripts⟩

/-- The slot that a bracket closed at its beginning is open again (R186). -/
theorem reopened {a : Slot} {i j : Instance} {c : Ctx} (h : Kept (Machine.closed s a i c) t) (ha : s.active = some a)
    (hj : t.slot a = some j) : Kept s (Machine.opened t a j) :=
  ⟨opened_singleActive hj, h.contract, fun b hb => by simpa [ha] using hb, fun x hx => h.live x (closed_live hx),
    h.scripts⟩

/-- CREATE fills a slot (R100). -/
theorem filled (h : Kept s t) (a : Slot) (v : Variant) : Kept s (createFilled t a v) :=
  h.of_same rfl rfl (fun _ => State.setSlot_live) h.contract (Nat.le_refl _)

end Kept

/-- `nest` serves the words that keep the contract, at fewer than `n` queued scripts. -/
def Nest.Faithful (nest : Nest) (n : Nat) : Prop :=
  ∀ cw s, Kept s s → s.scripts < n → keepsBracket cw = true → Ends False (nest cw s) (Kept s)

theorem Nest.Faithful.mono {nest : Nest} {n m : Nat} (h : nest.Faithful n) (hm : m ≤ n) : nest.Faithful m :=
  fun cw s hs hlt => h cw s hs (hlt.trans_le hm)

section
variable {nest : Nest} {n : Nat} (hn : nest.Faithful n)
include hn

theorem handlerActs_kept (acts : List HandlerAct) : ∀ s, Kept s s → s.scripts < n →
    (∀ cw, .command cw ∈ acts → keepsBracket cw = true) → Ends False (handlerActs nest acts s) (Kept s) := by
  induction acts with
  | nil => exact fun s hs _ _ => hs
  | cons act rest ih =>
    intro s hs hlt hk
    have hrest : ∀ cw, .command cw ∈ rest → keepsBracket cw = true := fun cw hcw => hk cw (.tail _ hcw)
    have next {t : State} (ht : Kept s t) : Ends False (handlerActs nest rest t) (Kept s) :=
      (ih t ht.self (ht.scripts.trans_lt hlt) hrest).mono fun _ => ht.trans
    cases act with
    | command cw => exact ends_andThen.2 ((hn cw s hs hlt (hk cw (.head _))).mono fun _ => next)
    | hostWrite g v => exact next (hs.poke g v)

theorem snapCommands_kept (cws : List CommandWord) : ∀ s, Kept s s → s.scripts < n →
    (∀ cw ∈ cws, keepsBracket cw = true) → Ends False (snapCommands nest cws s) (Kept s) := by
  induction cws with
  | nil => exact fun s hs _ _ => hs
  | cons cw rest ih =>
    intro s hs hlt hk
    exact ends_andThen.2 ((hn cw s hs hlt (hk cw (.head _))).mono fun t ht =>
      (ih t ht.self (ht.scripts.trans_lt hlt) fun cw hcw => hk cw (.tail _ hcw)).mono fun _ => ht.trans)

/-- A handler whose script has been taken keeps what its nested commands keep (R135). -/
theorem handler_kept {s t : State} (ht : Kept s t) (hs : s.scripts ≤ n) (id : HandlerId) (sel : CbIndex) (a : Addr)
    (d : Option Byte) :
    Ends False (handlerActs nest (nextHandler t id sel a).1.acts ((nextHandler t id sel a).2.log (.cb id sel a d)))
      (Kept t) := by
  have hstart : Kept t ((nextHandler t id sel a).2.log (.cb id sel a d)) := (ht.self.handler id sel a).log _
  rcases nextHandler_acts_nil_or_scripts_lt t id sel a with hnil | hlt
  · rw [hnil]; exact hstart
  · exact (handlerActs_kept hn _ _ hstart.self (hlt.trans_le (ht.scripts.trans hs))
      (nextHandler_keepsBracket ht.contract id sel a)).mono fun _ => hstart.trans

theorem driver_kept {s t : State} (ht : Kept s t) (hs : s.scripts ≤ n) (a : Slot) (e : PortEvent) :
    Ends False (snapCommands nest (nextSnap t a).1.commands ((nextSnap t a).2.log e)) (Kept t) := by
  have hstart : Kept t ((nextSnap t a).2.log e) := (ht.self.snap a).log _
  rcases nextSnap_commands_nil_or_scripts_lt t a with hnil | hlt
  · rw [hnil]; exact hstart
  · exact (snapCommands_kept hn _ _ hstart.self (hlt.trans_le (ht.scripts.trans hs))
      (nextSnap_keepsBracket ht.contract a)).mono fun _ => hstart.trans

variable {s : State} (hs : s.scripts ≤ n)
include hs

theorem serving_kept : Serving False nest (Kept s) where
  log _ e h := h.log e
  res _ r h := h.setRes r
  poke _ g v h := h.poke g v
  noInit _ h _ := h.violate _
  noActive _ h _ := h.violate _
  live := .inr fun _ _ h ha => (h.active_live ha).1
  handler _ id sel a d ht _ := (handler_kept hn ht hs id sel a d).mono fun _ hu =>
    ⟨fun _ => ht.trans hu, fun _ => (ht.trans hu).violate _⟩

theorem running_kept (ha : s.active ≠ none) : Running False nest (Kept s) where
  toServing := serving_kept hn hs
  context _ c h := h.context (h.active_ne_none ha) c
  script _ r call c h := h.engine r call c
  legal := .inr fun _ h => h.violate _
  ready := .inr fun _ h => h.ready (h.active_ne_none ha)

theorem running_opened_kept (a : Slot) (i : Instance) : Running False nest (Kept (opened s a i)) :=
  running_kept hn hs (by simp)

theorem bracketed_kept (hss : Kept s s) {a : Slot} (hi : s.slot a ≠ none) (line : BitVec 8) (status : IrqStatus) :
    Ends False (bracketed nest a line status s) (Kept s) := by
  unfold bracketed
  split
  · next ha =>
    refine ends_doOpen (.inr hi) fun i hi =>
      (running_opened_kept hn hs a i).applyIrq (hss.opened hi) fun u hu =>
        ends_doClose (.inr (hu.closable (by simp))) fun b j c _ _ _ => (hu.closed ha b j c).setRes _
  · next saved ha =>
    refine ends_doClose (.inr (hss.closable (by simp [ha]))) fun b i c hb _ _ => ?_
    obtain rfl : b = saved := by simpa [hb] using ha
    have hclosed : Kept (closed s b i c) (closed s b i c) := .refl (closed_singleActive s b i c) hss.contract
    refine ends_doOpen (.inr (closed_live hi)) fun j hj =>
      (running_opened_kept hn (s := closed s b i c) hs a j).applyIrq (hclosed.opened hj) fun u hu =>
        ends_doClose (.inr (hu.closable (by simp))) fun b' j' c' _ _ _ => ?_
    have hv := hu.closed rfl b' j' c'
    exact ends_doOpen (.inr (hv.live b (by simp [closed_slot]))) fun m hm => (hv.reopened hb hm).setRes _

theorem create_kept {s₀ : State} (hss : Kept s₀ s) (ha : s.active = none) (a : Slot) (v : Variant) :
    Ends False (doOpen (createFilled s a v) a fun t => invokeVoid nest .init t (createEnd a)) (Kept s₀) := by
  have hfilled : Kept s₀ (createFilled s a v) := hss.filled a v
  refine ends_doOpen (.inr (by simp [createFilled])) fun i hi =>
    (running_opened_kept hn (s := createFilled s a v) hs a i).invokeVoid (hfilled.self.opened hi) fun u hu =>
      ends_createEnd (.inr (hu.active_live (hu.active a rfl))) fun j c _ _ =>
        (hfilled.trans (hu.closed ha a j c)).setRes _

end

theorem regime_kept {nest : Nest} {s : State} (hn : nest.Faithful s.scripts) : Regime False nest (Kept s) where
  toServing := serving_kept hn (Nat.le_refl _)
  violate _ v h := h.violate v
  cur _ v h := h.setCur v
  put _ a _ j h _ := h.put a j
  zero _ h := h.zero
  opens _ _ _ h ha hi := h.opens ha hi
  context := .inr fun _ h ha => (h.ready ha).2
  engine t h ha := ⟨Kept t, h.self, running_kept hn h.scripts ha, fun _ => h.trans⟩
  bracket t a line status h hi := (bracketed_kept hn h.scripts h.self hi line status).mono fun _ => h.trans
  create t a v h ha := create_kept hn h.scripts h ha a v
  driver t a i e h hi := (driver_kept hn h (Nat.le_refl _) a e).mono fun u hu =>
    ⟨h.trans hu, .inr (hu.live a (by simp [hi]))⟩

/-- A nested word that keeps the contract completes, served at any depth beyond the number of queued scripts. -/
theorem serveNested_faithful (n : Nat) : (serveNested n).Faithful n := by
  induction n with
  | zero => exact fun _ _ _ h => absurd h (Nat.not_lt_zero _)
  | succ n ih =>
    intro cw s hs hlt hk
    have hregime : Regime False (serveNested n) (Kept s) := regime_kept (ih.mono (Nat.le_of_lt_succ hlt))
    refine ends_andThen.2 (Ends.mono (Q := Kept s) ?_ fun t ht => ht.log _)
    cases hd : decode cw with
    | ok i =>
      obtain ⟨hclose, hdestroy⟩ : i ≠ .close ∧ i ≠ .destroy := by simpa [keepsBracket, hd] using hk
      exact hregime.command hclose hdestroy hs
    | rejected _ => exact hs.violate _

/-- The single-active invariant holds and the queued scripts keep their contract. -/
def State.Sound (s : State) : Prop := s.SingleActive ∧ s.contractKept = true

theorem exec_sound (i : Instr) {s : State} (hs : s.Sound) : Ends False (exec i s) State.Sound := by
  have hss : Kept s s := .refl hs.1 hs.2
  have h : Regime False s.nest (Kept s) := regime_kept (serveNested_faithful _)
  by_cases hc : i = .close
  · subst hc
    exact ends_commonChecks (fun _ => hs) (fun _ => hs) fun a ha =>
      ends_doClose (.inr (hss.closable (by simp [ha]))) fun b j c _ _ _ => ⟨closed_singleActive s b j c, hs.2⟩
  by_cases hd : i = .destroy
  · subst hd
    exact ends_execDestroy (fun _ => hs) fun ha => ⟨destroyed_singleActive hs.1 ha, hs.2⟩
  rw [exec_eq_nestedCommand]
  exact (h.command hc hd hss).mono fun t ht => ⟨ht.single, ht.contract⟩

theorem step_sound {s : State} (hs : s.Sound) : Ends False (step s) State.Sound := by
  unfold step
  split
  · exact hs
  · next cw rest _ =>
    refine ends_andThen.2 (Ends.mono (Q := State.Sound) ?_ fun t ht => ht)
    split
    · exact exec_sound _ (s := s.setHostIn rest) hs
    · exact hs
  · exact hs
  · exact ⟨rfl, hs.2⟩

/-- Settles O16: every command keeps both conditions and does not stop, by `Kept` where it is no CLOSE or DESTROY. -/
theorem stepCompletesUnderContract : Obligations.StepCompletesUnderContract :=
  fun _ hs hc => ends_false_iff.1 (step_sound ⟨hs, hc⟩)

end Sys2Proof.Machine
end

section
/-! Reset, VIOL and the masks. -/

namespace Sys2Proof.Machine

/-- Settles O1: `step` and the reset state, evaluated. -/
theorem hardwareResetValues : Obligations.HardwareResetValues := by
  refine ⟨⟨rfl, rfl, State.reset_slot, rfl, rfl, rfl, rfl⟩, fun s h => ?_, fun s rest h => ?_⟩
  · exact step_eq_next.2 (.inl ⟨h, rfl⟩)
  · exact step_eq_next.2 (.inr (.inr (.inr ⟨rest, h, rfl⟩)))

/-- Settles O12: no slot is live and no script is queued. -/
theorem resetMeetsInvariants : Obligations.ResetMeetsInvariants :=
  ⟨rfl, HostMem.wf_nil, fun a i h => by simp at h, rfl, rfl, rfl⟩

/-! VIOL is sticky (R16, R243). -/

/-- A recorded code stays, a further violation included. -/
theorem Change.viol_of_some {s t : State} {v : Violation} (hs : s.viol = some v) (h : Change s t) :
    t.viol = some v := by
  cases h with
  | violate w => simp [hs]
  | engine r call c => simpa using hs
  | handler id sel a => simpa using hs
  | snap a => simpa using hs
  | _ => exact hs

/-- Settles O10: a step on a command is a chain of changes, and of the HOST's other inputs only the reset touches
VIOL. -/
theorem violationIsSticky : Obligations.ViolationIsSticky := by
  refine ⟨fun s v => ⟨?_, rfl⟩, fun s t v ht hs => ?_, fun s rest h => ?_⟩
  · simp only [State.violate_viol]
    cases s.viol <;> rfl
  · rcases step_eq_next.1 ht with ⟨-, rfl⟩ | ⟨cw, rest, -, h⟩ | ⟨a, w, rest, -, rfl⟩ | ⟨rest, hIn, -⟩
    · exact .inl hs
    · exact .inl ((runWord_chain h).keeps (P := fun u => u.viol = some v) (fun _ _ => Change.viol_of_some) hs)
    · exact .inl hs
    · exact .inr ⟨rest, hIn⟩
  · exact ⟨_, step_eq_next.2 (.inr (.inr (.inr ⟨rest, h, rfl⟩))), rfl⟩

/-! The masks (R21, R141). -/

/-- MASK may have this value. -/
def MaskLegal (m : Addr) : Prop := maskOk m = true ∨ m = Config.maskInit

theorem State.MasksLegal.of_slots {s t : State} (h : s.MasksLegal) (he : t.slots = s.slots) : t.MasksLegal :=
  fun a i hi => h a i (State.ext_slots he a ▸ hi)

theorem State.MasksLegal.setSlot {s : State} (h : s.MasksLegal) (a : Slot) {j : Instance} (hj : MaskLegal j.mask) :
    (s.setSlot a (some j)).MasksLegal := by
  intro b i hi
  rw [State.setSlot_slot] at hi
  split at hi
  · obtain rfl : j = i := by simpa using hi
    exact hj
  · exact h b i hi

/-- Every change keeps the masks legal: SETMASK puts a mask that has passed its check, CREATE puts MASK_INIT, and what
else writes an instance leaves its mask. -/
theorem Change.masksLegal {s t : State} (hs : s.MasksLegal) (h : Change s t) : t.MasksLegal := by
  cases h with
  | engine r call c => exact hs.of_slots (by simp)
  | handler id sel a => exact hs.of_slots (by simp)
  | snap a => exact hs.of_slots (by simp)
  | closed a i c hi hc => exact hs.setSlot a (j := { i with rb := saveContext c, total := s.cur }) (hs a i hi)
  | filled a v hn => exact hs.setSlot a (j := Instance.fresh v) (.inr rfl)
  | destroyed hn => exact fun a i hi => by simp [State.slot] at hi
  | zeroed =>
    intro a i hi
    rw [zeroTotals_slot] at hi
    obtain ⟨j, hj, rfl⟩ := Option.map_eq_some_iff.1 hi
    exact hs a j hj
  | mapped a i hi buffer start stop kinds => exact hs.setSlot a (hs a i hi)
  | masked a i hi mask hm => exact hs.setSlot a (.inl hm)
  | callback a i hi j handler => exact hs.setSlot a (hs a i hi)
  | remapped a i hi index value => exact hs.setSlot a (hs a i hi)
  | restored a i hi d => exact hs.setSlot a (hs a i hi)
  | _ => exact hs

/-- Settles O15: every change a command is made of keeps the masks legal, and the hardware reset leaves no slot live. -/
theorem stepKeepsMasksLegal : Obligations.StepKeepsMasksLegal :=
  fun _ _ hs ht => step_keeps (fun _ _ => Change.masksLegal) (fun _ _ h => h)
    (fun _ _ a i hi => absurd hi (by simp [State.hardwareReset, State.slot, State.reset])) ht hs

end Sys2Proof.Machine
end

section
/-! Commands with nothing nested: the queued scripts are quiet. What such a command writes is its own, and it records a
violation only when one of its checks fails. -/

namespace Sys2Proof.Machine

/-! Quiet scripts. -/

theorem State.quiet_iff {s : State} :
    s.quiet = true ↔ (∀ h ∈ s.env.handlerIn, h.acts.all HandlerAct.isWrite = true) ∧
      (∀ d ∈ s.env.snapIn, d.commands = []) ∧ ∀ e ∈ s.env.engineIn, e.acts.all EngineAct.isLegal = true := by
  simp only [State.quiet, Bool.and_eq_true, List.all_eq_true, List.isEmpty_iff, and_assoc]

theorem State.quiet_of_mem {s t : State} (h : s.quiet = true) (hh : ∀ x ∈ t.env.handlerIn, x ∈ s.env.handlerIn)
    (hd : ∀ x ∈ t.env.snapIn, x ∈ s.env.snapIn) (he : ∀ x ∈ t.env.engineIn, x ∈ s.env.engineIn) :
    t.quiet = true := by
  obtain ⟨h1, h2, h3⟩ := State.quiet_iff.1 h
  exact State.quiet_iff.2 ⟨fun x hx => h1 x (hh x hx), fun x hx => h2 x (hd x hx), fun x hx => h3 x (he x hx)⟩

theorem nextHandler_quiet {s : State} (h : s.quiet = true) (id : HandlerId) (sel : CbIndex) (a : Addr) :
    (nextHandler s id sel a).2.quiet = true := by
  rcases nextHandler_snd s id sel a with he | he <;> rw [he]
  · exact State.quiet_of_mem h (fun _ => List.mem_of_mem_tail) (fun _ hx => hx) fun _ hx => hx
  · exact h

theorem nextSnap_quiet {s : State} (h : s.quiet = true) (a : Slot) : (nextSnap s a).2.quiet = true := by
  rcases nextSnap_snd s a with he | he <;> rw [he]
  · exact State.quiet_of_mem h (fun _ hx => hx) (fun _ => List.mem_of_mem_tail) fun _ hx => hx
  · exact h

theorem nextEngine_quiet {s : State} (h : s.quiet = true) (r : Routine) (call : EngineCall) (c : Ctx) :
    (nextEngine s r call c).2.quiet = true := by
  rcases nextEngine_snd s r call c with he | he <;> rw [he]
  · exact State.quiet_of_mem h (fun _ hx => hx) (fun _ hx => hx) fun _ => List.mem_of_mem_tail
  · exact h

theorem nextSnap_commands {s : State} (h : s.quiet = true) (a : Slot) : (nextSnap s a).1.commands = [] := by
  unfold nextSnap
  split
  · next d rest hd => exact (State.quiet_iff.1 h).2.1 d (by simp [hd])
  · rfl

theorem nextEngine_isLegal {s : State} (h : s.quiet = true) (r : Routine) (call : EngineCall) (c : Ctx) :
    (nextEngine s r call c).1.acts.all EngineAct.isLegal = true := by
  unfold nextEngine
  split
  · next e rest he => exact (State.quiet_iff.1 h).2.2 e (by simp [he])
  · rfl

theorem State.pokeAll_quiet (acts : List HandlerAct) : ∀ s : State, (s.pokeAll acts).quiet = s.quiet := by
  induction acts with
  | nil => exact fun _ => rfl
  | cons act rest ih => intro s; cases act <;> exact ih _

/-! The engine and the access commands. -/

/-- What engine behaviours and access commands that begin in `s` leave, with nothing nested: the block but for WCTX, of
which `W` holds, and VIOL, which they write only when one of the common checks fails. -/
structure QuietRun (W : WorkingContext → Prop) (s t : State) : Prop where
  quiet : t.quiet = true
  count : t.count = s.count
  active : t.active = s.active
  slots : t.slots = s.slots
  cur : t.cur = s.cur
  viol : s.count ≠ 0#32 → s.active ≠ none → t.viol = s.viol
  wctx : W t.wctx

section
variable {stops : Prop} {W : WorkingContext → Prop} {s : State}

theorem QuietRun.refl (hq : s.quiet = true) (hW : W s.wctx) : QuietRun W s s :=
  ⟨hq, rfl, rfl, rfl, rfl, fun _ _ => rfl, hW⟩

theorem QuietRun.slot {t : State} (h : QuietRun W s t) (a : Slot) : t.slot a = s.slot a := State.ext_slots h.slots a

theorem QuietRun.log {t : State} (h : QuietRun W s t) (e : PortEvent) : QuietRun W s (t.log e) :=
  ⟨h.quiet, h.count, h.active, h.slots, h.cur, h.viol, h.wctx⟩

theorem QuietRun.handler {t : State} (h : QuietRun W s t) (id : HandlerId) (sel : CbIndex) (a : Addr) :
    QuietRun W s (nextHandler t id sel a).2 where
  quiet := nextHandler_quiet h.quiet id sel a
  count := by simpa using h.count
  active := by simpa using h.active
  slots := by simpa using h.slots
  cur := by simpa using h.cur
  viol hc ha := by simpa using h.viol hc ha
  wctx := by simpa using h.wctx

theorem QuietRun.engine {t : State} (h : QuietRun W s t) (r : Routine) (call : EngineCall) (c : Ctx) :
    QuietRun W s (nextEngine t r call c).2 where
  quiet := nextEngine_quiet h.quiet r call c
  count := by simpa using h.count
  active := by simpa using h.active
  slots := by simpa using h.slots
  cur := by simpa using h.cur
  viol hc ha := by simpa using h.viol hc ha
  wctx := by simpa using h.wctx

theorem QuietRun.pokeAll {t : State} (h : QuietRun W s t) (acts : List HandlerAct) : QuietRun W s (t.pokeAll acts) := by
  obtain ⟨hcount, hactive, hslots, hcur, hwctx, hviol⟩ := State.pokeAll_sameBlock acts t
  exact ⟨(State.pokeAll_quiet acts t).trans h.quiet, hcount.trans h.count, hactive.trans h.active, hslots.trans h.slots,
    hcur.trans h.cur, fun hc ha => hviol.trans (h.viol hc ha), hwctx ▸ h.wctx⟩

theorem serving_quietRun (nest : Nest) (hl : stops ∨ ∀ a, s.active = some a → s.slot a ≠ none) :
    Serving stops nest (QuietRun W s) where
  log _ e h := h.log e
  res _ _ h := ⟨h.quiet, h.count, h.active, h.slots, h.cur, h.viol, h.wctx⟩
  poke _ _ _ h := ⟨h.quiet, h.count, h.active, h.slots, h.cur, h.viol, h.wctx⟩
  noInit _ h hzero :=
    ⟨h.quiet, h.count, h.active, h.slots, h.cur, fun hc _ => absurd (h.count.symm.trans hzero) hc, h.wctx⟩
  noActive _ h hnone :=
    ⟨h.quiet, h.count, h.active, h.slots, h.cur, fun _ ha => absurd (h.active.symm.trans hnone) ha, h.wctx⟩
  live := hl.imp_right fun hl t a h ha => by rw [h.slot]; exact hl a (h.active.symm.trans ha)
  handler t id sel a d h ha := by
    rw [handlerActs_of_writes nest _ _ (nextHandler_isWrite h.quiet id sel a)]
    exact ⟨fun _ => ((h.handler id sel a).log _).pokeAll _, fun hne => absurd (by simp) hne⟩

/-- WCTX can be read, or a stop is allowed. -/
def Readable (stops : Prop) (w : WorkingContext) : Prop := stops ∨ w ≠ .poison

theorem running_quietRun (nest : Nest) (hs : stops ∨ s.SingleActive) (ha : s.active ≠ none) :
    Running stops nest (QuietRun (Readable stops) s) where
  toServing := serving_quietRun nest (hs.imp_right fun hs a ha => ((State.singleActive_of_some ha).1 hs).1)
  context _ c h := ⟨h.quiet, h.count, h.active, h.slots, h.cur, h.viol, .inr (by simp)⟩
  script _ r call c h := h.engine r call c
  legal := .inl fun _ r call c h => nextEngine_isLegal h.quiet r call c
  ready := (Classical.em stops).imp_right fun hn t h => ⟨by rwa [h.active], h.wctx.resolve_left hn⟩

/-- An engine runs in a slot that has just been opened. -/
theorem running_opened_quietRun (nest : Nest) {a : Slot} {i : Instance} (hi : s.slot a = some i) :
    Running stops nest (QuietRun (Readable stops) (opened s a i)) :=
  running_quietRun nest (.inr (opened_singleActive hi)) (by simp)

theorem quietRun_opened (hq : s.quiet = true) {a : Slot} {i : Instance} :
    QuietRun (Readable stops) (opened s a i) (opened s a i) :=
  .refl hq (.inr (by simp))

theorem QuietRun.closable {t : State} {a : Slot} (h : QuietRun (Readable stops) s t) (ha : s.active = some a)
    (hi : s.slot a ≠ none) : stops ∨ ∃ a, t.active = some a ∧ t.slot a ≠ none ∧ t.wctx ≠ .poison :=
  h.wctx.imp_right fun hw => ⟨a, h.active.trans ha, by rwa [h.slot], hw⟩

theorem readable_of_active (hs : stops ∨ s.SingleActive) (ha : s.active ≠ none) : Readable stops s.wctx := by
  obtain ⟨a, ha⟩ := Option.ne_none_iff_exists'.1 ha
  exact hs.imp_right fun hs => ((State.singleActive_of_some ha).1 hs).2

end

/-! The slots but for some of their fields. -/

/-- The slots of `s` and `t` agree on what `f` reads of an instance. -/
def SlotsAgree {β : Type} (f : Instance → β) (s t : State) : Prop := ∀ a, (t.slot a).map f = (s.slot a).map f

namespace SlotsAgree
variable {β : Type} {f : Instance → β} {s t u : State}

theorem of_slots (h : t.slots = s.slots) : SlotsAgree f s t := fun a => by rw [State.ext_slots h]

theorem trans (h : SlotsAgree f s t) (h' : SlotsAgree f t u) : SlotsAgree f s u := fun a => (h' a).trans (h a)

/-- What can be read from `g` alone is agreed on where `g` is. -/
theorem of_factor {h : Instance → Instance} (hs : SlotsAgree h s t) (hf : ∀ j, f (h j) = f j) : SlotsAgree f s t := by
  intro a
  simpa [Function.comp_def, hf] using congrArg (Option.map f) (hs a)

theorem setSlot {a : Slot} {i j : Instance} (hi : s.slot a = some i) (hf : f j = f i) :
    SlotsAgree f s (s.setSlot a (some j)) := by
  intro b
  rw [State.setSlot_slot]
  split
  · next hab => subst hab; simp [hi, hf]
  · rfl

end SlotsAgree

/-! What each command writes. -/

/-- An instance without the fields that the command may write (R18 to R25). -/
def Instance.without (i : Instance) : Instr → Instance
  | .mapRange _ _ _ _ =>
    { i with rd := .replicate _ none, wr := .replicate _ none, fe := .replicate _ none }
  | .setMask _ => { i with mask := 0 }
  | .setCb _ _ => { i with cb := .replicate _ none }
  | .setRemap _ _ => { i with remap := .replicate _ 0 }
  | .close | .setIrqx _ _ _ => { i with rb := .zero, total := 0 }
  | .newFrame => { i with total := 0 }
  | .scan driver write =>
    { i with
      rb := bif driver && write then .zero else i.rb
      total := bif driver && write then 0 else i.total
      segment := bif driver && write then 0 else i.segment }
  | _ => i

/-- The commands that may write ACTIVE (R12). SETIRQX leaves it as it was. -/
def writesActive : Instr → Bool
  | .openSlot _ | .close => true
  | _ => false

/-- The commands that may write CUR (R14). -/
def writesCur : Instr → Bool
  | .openSlot _ | .run _ | .idle _ | .newFrame | .setIrqx _ _ _ => true
  | _ => false

/-- The commands that may write WCTX (R15). -/
def writesWctx : Instr → Bool
  | .openSlot _ | .close | .cpuReset | .run _ | .setIrq _ _ | .setIrqx _ _ _ => true
  | _ => false

/-- `t` differs from `s` only in what command `i` may write, RES and the environment; VIOL is the same when none of
the checks of `i` fails in `s`. -/
structure OwnWrites (i : Instr) (s t : State) : Prop where
  count : t.count = s.count
  slots : SlotsAgree (·.without i) s t
  active : writesActive i = false → t.active = s.active
  cur : writesCur i = false → t.cur = s.cur
  wctx : writesWctx i = false → t.wctx = s.wctx
  viol : firstViolation i s = none → t.viol = s.viol

/-- When no check fails, no violation's cause is there. -/
theorem raises_eq_false {i : Instr} {s : State} (h : firstViolation i s = none) (v : Violation) :
    raises i s v = false := by
  have h := List.find?_eq_none.1 h v
  cases v with
  | activeChanged => rfl
  | _ => simpa [checkOrder] using h

theorem count_ne_zero_of_passed {i : Instr} {s : State} (h : firstViolation i s = none) (hi : needsInit i = true) :
    s.count ≠ 0#32 := by
  simpa [raises, hi] using raises_eq_false h .noInit

theorem active_ne_none_of_passed {i : Instr} {s : State} (h : firstViolation i s = none) (hi : needsActive i = true) :
    s.active ≠ none :=
  Option.isSome_iff_ne_none.1 (by simpa [raises, hi] using raises_eq_false h .noActive)

namespace OwnWrites
variable {i : Instr} {s t : State}

theorem setRes (h : OwnWrites i s t) (r : Result) : OwnWrites i s (t.setRes r) :=
  ⟨h.count, h.slots, h.active, h.cur, h.wctx, h.viol⟩

theorem log (h : OwnWrites i s t) (e : PortEvent) : OwnWrites i s (t.log e) :=
  ⟨h.count, h.slots, h.active, h.cur, h.wctx, h.viol⟩

theorem refl : OwnWrites i s s :=
  ⟨rfl, fun _ => rfl, fun _ => rfl, fun _ => rfl, fun _ => rfl, fun _ => rfl⟩

theorem violate {v : Violation} (h : raises i s v = true) : OwnWrites i s (s.violate v) :=
  ⟨rfl, fun _ => rfl, fun _ => rfl, fun _ => rfl, fun _ => rfl, fun hp => by simp [raises_eq_false hp v] at h⟩

theorem put (h : OwnWrites i s t) {a : Slot} {j k : Instance} (hj : t.slot a = some j)
    (hk : k.without i = j.without i) : OwnWrites i s (t.setSlot a (some k)) :=
  ⟨h.count, h.slots.trans (.setSlot hj hk), h.active, h.cur, h.wctx, h.viol⟩

theorem snap (h : OwnWrites i s t) (a : Slot) : OwnWrites i s (nextSnap t a).2 where
  count := by simpa using h.count
  slots := h.slots.trans (.of_slots (by simp))
  active hw := by simpa using h.active hw
  cur hw := by simpa using h.cur hw
  wctx hw := by simpa using h.wctx hw
  viol hp := by simpa using h.viol hp

/-- A command on the active instance that runs the engine or makes an access. -/
theorem of_quietRun {W : WorkingContext → Prop} (hi : needsInit i = true) (ha : needsActive i = true)
    (h : QuietRun W s t) (hw : writesWctx i = true ∨ t.wctx = s.wctx) : OwnWrites i s t :=
  ⟨h.count, .of_slots h.slots, fun _ => h.active, fun _ => h.cur, fun hf => hw.resolve_left (by simp [hf]), fun hp =>
    h.viol (count_ne_zero_of_passed hp hi) (active_ne_none_of_passed hp ha)⟩

end OwnWrites

/-- A selector operand that names no callback is the illegal sub-field of SETCB (R76, R82). -/
theorem selectorOf_eq_none {sel : BitVec 3} : selectorOf sel = none ↔ selectorOk sel = false := by
  unfold selectorOf selectorOk
  split <;> simp [*]

section
variable {stops : Prop} {nest : Nest} {i : Instr} {s : State}

theorem ownWrites_checkInit {k : Out} (hi : needsInit i = true) (hk : Ends stops k (OwnWrites i s)) :
    Ends stops (checkInit s k) (OwnWrites i s) :=
  ends_checkInit (fun hc => .violate (by simp [raises, hi, hc])) fun _ => hk

theorem ownWrites_commonChecks {k : Slot → Out} (hi : needsInit i = true) (ha : needsActive i = true)
    (hk : ∀ a, s.active = some a → Ends stops (k a) (OwnWrites i s)) :
    Ends stops (commonChecks s k) (OwnWrites i s) :=
  ends_commonChecks (fun hc => .violate (by simp [raises, hi, hc])) (fun hn => .violate (by simp [raises, ha, hn])) hk

theorem ownWrites_open (b : BitVec 8) : Ends stops (execOpen b s) (OwnWrites (.openSlot b) s) := by
  refine ownWrites_checkInit rfl (ends_checkLive (fun hb => .violate (by simp [raises, hb])) fun a j hj => ?_)
  split
  · next ha => exact .violate (by simp [raises, Option.isSome_iff_ne_none, ha])
  · exact ends_doOpen (.inr (by simp [hj])) fun k hk =>
      ⟨rfl, fun _ => rfl, nofun, nofun, nofun, fun _ => rfl⟩

/-- What CLOSE saves is all it writes of an instance (R103). -/
theorem closed_slotsAgree {t : State} {a : Slot} {j : Instance} {c : Ctx} (hj : t.slot a = some j) :
    SlotsAgree (·.without .close) t (closed t a j c) :=
  .setSlot hj rfl

theorem ownWrites_scan (hq : s.quiet = true) (driver write : Bool) :
    Ends stops (scanBy nest driver write s) (OwnWrites (.scan driver write) s) := by
  refine ownWrites_checkInit rfl ?_
  cases driver with
  | false => exact OwnWrites.refl.setRes _
  | true =>
    refine (ends_scanSlots (Q := fun t => t.quiet = true ∧ OwnWrites (.scan true write) s t)
      (fun _ r h => ⟨h.1, h.2.setRes r⟩) (fun t a i k h hi hk => ?_) _ s ⟨hq, .refl⟩).mono fun _ h => h.2
    refine ends_scanRecord ?_ (fun hw u j hu hj => ?_) hk
    · rw [nextSnap_commands h.1]
      exact ⟨⟨nextSnap_quiet h.1 a, (h.2.snap a).log _⟩, .inr (by simp [hi])⟩
    · subst hw
      exact ⟨hu.1, hu.2.put hj rfl⟩

variable (hs : stops ∨ s.SingleActive)
include hs

theorem ends_withActive_of_single {a : Slot} {k : Slot → Instance → Out} {Q : State → Prop} (ha : s.active = some a)
    (hk : ∀ j, s.slot a = some j → Ends stops (k a j) Q) : Ends stops (withActive s k) Q :=
  ends_withActive (hs.imp_right fun hs => ⟨a, ha, ((State.singleActive_of_some ha).1 hs).1⟩) fun b j hb hj => by
    obtain rfl : a = b := by simpa [ha] using hb
    exact hk j hj

theorem ownWrites_configure {a : Slot} {f : Instance → Instance} (ha : s.active = some a)
    (hf : ∀ j : Instance, (f j).without i = j.without i) : Ends stops (configure s f) (OwnWrites i s) :=
  ends_withActive_of_single hs ha fun j hj => (OwnWrites.refl.put hj (hf j)).setRes _

theorem ownWrites_counterRead {event : Slot → PortEvent} {value : Ctx → Result} (hi : needsInit i = true)
    (ha : needsActive i = true) :
    Ends stops (commonChecks s fun a => withContext s fun c => finish (s.log (event a)) (value c)) (OwnWrites i s) :=
  ownWrites_commonChecks hi ha fun _ ha => ends_withContext (readable_of_active hs (by simp [ha])) fun _ _ =>
    (OwnWrites.refl.log _).setRes _

/-- A command on the active instance that runs its engine. -/
theorem ownWrites_engine {o : Out} (hq : s.quiet = true) (hi : needsInit i = true) (ha : needsActive i = true)
    (ho : Running stops nest (QuietRun (Readable stops) s) → QuietRun (Readable stops) s s →
      Ends stops o (OwnWrites i s)) :
    Ends stops (commonChecks s fun _ => o) (OwnWrites i s) :=
  ownWrites_commonChecks hi ha fun a ha =>
    have ha : s.active ≠ none := by simp [ha]
    ho (running_quietRun nest hs ha) (.refl hq (readable_of_active hs ha))

/-- The bracket of R186 ends with the slot open that was open at its beginning. -/
theorem ownWrites_bracketed (hq : s.quiet = true) {a : Slot} (ha : s.slot a ≠ none) (b line : BitVec 8)
    (status : IrqStatus) : Ends stops (bracketed nest a line status s) (OwnWrites (.setIrqx b line status) s) := by
  have hcount (hp : firstViolation (.setIrqx b line status) s = none) : s.count ≠ 0#32 :=
    count_ne_zero_of_passed hp rfl
  unfold bracketed
  split
  · next hnone =>
    refine ends_doOpen (.inr ha) fun i hi =>
      (running_opened_quietRun nest hi).applyIrq (quietRun_opened hq) fun u hu =>
        ends_doClose (hu.closable rfl (by simp [hi])) fun x j c _ hj _ => ?_
    have hslots : SlotsAgree (·.without .close) s u := .of_slots hu.slots
    exact ⟨hu.count, hslots.trans (closed_slotsAgree hj), fun _ => hnone.symm, nofun, nofun,
      fun hp => hu.viol (hcount hp) (by simp)⟩
  · next saved hsaved =>
    refine ends_doClose (hs.imp_right fun hs => ⟨saved, hsaved, (State.singleActive_of_some hsaved).1 hs⟩)
      fun y m d hy hm _ => ?_
    obtain rfl : y = saved := by simpa [hy] using hsaved
    refine ends_doOpen (.inr (closed_live ha)) fun i hi =>
      (running_opened_quietRun nest hi).applyIrq (quietRun_opened (s := closed s y m d) hq) fun u hu =>
        ends_doClose (hu.closable rfl (by simp [hi])) fun x j c _ hj _ => ?_
    have hlive : u.slot y ≠ none := by
      rw [hu.slot]
      exact closed_live (by simp [hm])
    have hslots : SlotsAgree (·.without .close) s u := (closed_slotsAgree hm).trans (.of_slots hu.slots)
    exact ends_doOpen (.inr (closed_live hlive)) fun k hk =>
      ⟨hu.count, hslots.trans (closed_slotsAgree hj), fun _ => hsaved.symm, nofun, nofun,
        fun hp => hu.viol (hcount hp) (by simp)⟩

/-- With nothing nested a command writes only what is its own. -/
theorem nestedCommand_ownWrites (hq : s.quiet = true) (hcreate : ∀ b v, i ≠ .create b v) (hdestroy : i ≠ .destroy) :
    Ends stops (nestedCommand nest i s) (OwnWrites i s) := by
  have haccess (hi : isAccess i = true) (hinit : needsInit i = true) (hact : needsActive i = true) :
      Ends stops (nestedCommand nest i s) (OwnWrites i s) :=
    (Serving.access (serving_quietRun nest (hs.imp_right fun hs _ ha => ((State.singleActive_of_some ha).1 hs).1)) hi
      (QuietRun.refl (W := (· = s.wctx)) hq rfl)).mono fun t ht => .of_quietRun hinit hact ht (.inr ht.wctx)
  cases i with
  | create b v => exact absurd rfl (hcreate b v)
  | destroy => exact absurd rfl hdestroy
  | openSlot b => exact ownWrites_open b
  | close =>
    refine ownWrites_commonChecks rfl rfl fun a ha =>
      ends_doClose (hs.imp_right fun hs => ⟨a, ha, (State.singleActive_of_some ha).1 hs⟩) fun b j c _ hj _ => ?_
    exact ⟨rfl, closed_slotsAgree hj, nofun, fun _ => rfl, nofun, fun _ => rfl⟩
  | getActive => exact ownWrites_checkInit rfl (OwnWrites.refl.setRes _)
  | getPc => exact ownWrites_counterRead hs rfl rfl
  | getPpc => exact ownWrites_counterRead hs rfl rfl
  | cpuReset =>
    exact ownWrites_engine hs hq rfl rfl fun hrun hstart => hrun.invokeVoid hstart fun t ht =>
      (OwnWrites.of_quietRun rfl rfl ht (.inl rfl)).setRes _
  | mapRange buffer start stop kinds =>
    exact ownWrites_commonChecks rfl rfl fun a ha => ownWrites_configure hs ha fun _ => rfl
  | setMask mask =>
    refine ownWrites_commonChecks rfl rfl fun a ha => ?_
    split
    · exact ownWrites_configure hs ha fun _ => rfl
    · next hm => exact .violate (by simp [raises, hm])
  | setCb sel handler =>
    simp only [nestedCommand, execSetCb]
    split
    · next hsel => exact .violate (by simp [raises, Instr.wellFormed, selectorOf_eq_none.1 hsel])
    · exact ownWrites_commonChecks rfl rfl fun a ha => ownWrites_configure hs ha fun _ => rfl
  | setRemap index value =>
    exact ownWrites_commonChecks rfl rfl fun a ha => ownWrites_configure hs ha fun _ => rfl
  | setIrq line status =>
    exact ownWrites_engine hs hq rfl rfl fun hrun hstart => hrun.applyIrq hstart fun t ht =>
      (OwnWrites.of_quietRun rfl rfl ht (.inl rfl)).setRes _
  | setIrqx b line status =>
    refine ownWrites_checkInit rfl (ends_checkLive (fun hb => .violate (by simp [raises, hb])) fun a j hj => ?_)
    split
    · next ha =>
      have ha : s.active ≠ none := by simp [ha]
      exact (running_quietRun nest hs ha).applyIrq (.refl hq (readable_of_active hs ha)) fun t ht =>
        ⟨ht.count, .of_slots ht.slots, fun _ => ht.active, nofun, nofun,
          fun hp => ht.viol (count_ne_zero_of_passed hp rfl) ha⟩
    · exact ownWrites_bracketed hs hq (by simp [hj]) b line status
  | newFrame =>
    have hslots : SlotsAgree (·.without .newFrame) s (s.setSlots (zeroTotals s.slots)) := fun a => by
      rw [zeroTotals_slot, Option.map_map]
      rfl
    exact ownWrites_checkInit rfl ⟨rfl, hslots, fun _ => rfl, nofun, fun _ => rfl, fun _ => rfl⟩
  | run n =>
    exact ownWrites_engine hs hq rfl rfl fun hrun hstart => hrun.invoke hstart fun c t ht =>
      have h : OwnWrites (.run n) s t := .of_quietRun rfl rfl ht (.inl rfl)
      ⟨h.count, h.slots, h.active, nofun, h.wctx, h.viol⟩
  | idle n =>
    exact ownWrites_commonChecks rfl rfl fun a ha =>
      ⟨rfl, fun _ => rfl, fun _ => rfl, nofun, fun _ => rfl, fun _ => rfl⟩
  | getCur => exact ownWrites_checkInit rfl (OwnWrites.refl.setRes _)
  | getSaved b =>
    exact ownWrites_checkInit rfl (ends_checkLive (fun hb => .violate (by simp [raises, hb])) fun a j hj =>
      OwnWrites.refl.setRes _)
  | scan driver write => exact ownWrites_scan hq driver write
  | _ => exact haccess rfl rfl rfl

end
end Sys2Proof.Machine
end

section
/-! What is left of `OwnWrites` field by field, and the completion of a command whose checks pass. -/

namespace Sys2Proof.Machine

theorem exec_ownWrites {stops : Prop} {i : Instr} {s : State} (hs : stops ∨ s.SingleActive) (hq : s.quiet = true)
    (hcreate : ∀ b v, i ≠ .create b v) (hdestroy : i ≠ .destroy) : Ends stops (exec i s) (OwnWrites i s) := by
  rw [exec_eq_nestedCommand]
  exact nestedCommand_ownWrites hs hq hcreate hdestroy

/-! Which fields of an instance a command leaves (R18 to R25). -/

namespace Instance
variable {i : Instr} (j : Instance)

/-- A SCAN of driver scope in the write direction writes what the driver supplies, any other SCAN nothing (R215). -/
theorem without_scan {driver write : Bool} (h : Instr.scan driver write ≠ .scan true true) :
    j.without (.scan driver write) = j := by
  cases driver with
  | false => rfl
  | true =>
    cases write with
    | false => rfl
    | true => exact absurd rfl h

theorem without_variant : (j.without i).variant = j.variant := by
  cases i <;> rfl

theorem without_remap (hi : ∀ x y, i ≠ .setRemap x y) : (j.without i).remap = j.remap := by
  cases i with
  | setRemap x y => exact absurd rfl (hi x y)
  | _ => rfl

theorem without_mask (hi : ∀ m, i ≠ .setMask m) : (j.without i).mask = j.mask := by
  cases i with
  | setMask m => exact absurd rfl (hi m)
  | _ => rfl

theorem without_tables (hi : ∀ p x y k, i ≠ .mapRange p x y k) :
    ((j.without i).rd, (j.without i).wr, (j.without i).fe) = (j.rd, j.wr, j.fe) := by
  cases i with
  | mapRange p x y k => exact absurd rfl (hi p x y k)
  | _ => rfl

theorem without_cb (hi : ∀ x h, i ≠ .setCb x h) : (j.without i).cb = j.cb := by
  cases i with
  | setCb x h => exact absurd rfl (hi x h)
  | _ => rfl

theorem without_segment (hscan : i ≠ .scan true true) : (j.without i).segment = j.segment := by
  cases i with
  | scan driver write => rw [without_scan j hscan]
  | _ => rfl

theorem without_total (hscan : i ≠ .scan true true) (hclose : i ≠ .close) (hframe : i ≠ .newFrame)
    (hirq : ∀ b l x, i ≠ .setIrqx b l x) : (j.without i).total = j.total := by
  cases i with
  | scan driver write => rw [without_scan j hscan]
  | close => exact absurd rfl hclose
  | newFrame => exact absurd rfl hframe
  | setIrqx b l x => exact absurd rfl (hirq b l x)
  | _ => rfl

theorem without_rb (hscan : i ≠ .scan true true) (hclose : i ≠ .close) (hirq : ∀ b l x, i ≠ .setIrqx b l x) :
    (j.without i).rb = j.rb := by
  cases i with
  | scan driver write => rw [without_scan j hscan]
  | close => exact absurd rfl hclose
  | setIrqx b l x => exact absurd rfl (hirq b l x)
  | _ => rfl

end Instance

theorem writesActive_eq_false {i : Instr} (hopen : ∀ b, i ≠ .openSlot b) (hclose : i ≠ .close) :
    writesActive i = false := by
  cases i with
  | openSlot b => exact absurd rfl (hopen b)
  | close => exact absurd rfl hclose
  | _ => rfl

theorem writesCur_eq_false {i : Instr} (hopen : ∀ b, i ≠ .openSlot b) (hrun : ∀ n, i ≠ .run n)
    (hidle : ∀ n, i ≠ .idle n) (hframe : i ≠ .newFrame) (hirq : ∀ b l x, i ≠ .setIrqx b l x) : writesCur i = false := by
  cases i with
  | openSlot b => exact absurd rfl (hopen b)
  | run n => exact absurd rfl (hrun n)
  | idle n => exact absurd rfl (hidle n)
  | newFrame => exact absurd rfl hframe
  | setIrqx b l x => exact absurd rfl (hirq b l x)
  | _ => rfl

theorem writesWctx_eq_false {i : Instr} (hopen : ∀ b, i ≠ .openSlot b) (hclose : i ≠ .close) (hreset : i ≠ .cpuReset)
    (hrun : ∀ n, i ≠ .run n) (hline : ∀ l x, i ≠ .setIrq l x) (hirq : ∀ b l x, i ≠ .setIrqx b l x) :
    writesWctx i = false := by
  cases i with
  | openSlot b => exact absurd rfl (hopen b)
  | close => exact absurd rfl hclose
  | cpuReset => exact absurd rfl hreset
  | run n => exact absurd rfl (hrun n)
  | setIrq l x => exact absurd rfl (hline l x)
  | setIrqx b l x => exact absurd rfl (hirq b l x)
  | _ => rfl

/-- Settles O57: `OwnWrites` with `Instance.without`, `writesActive`, `writesCur` and `writesWctx` spelled out. -/
theorem onlyItsCommandWritesEachField : Obligations.OnlyItsCommandWritesEachField := by
  intro i s t ht hq hcreate hdestroy
  obtain ⟨hcount, hslots, hactive, hcur, hwctx, -⟩ :=
    ends_true_iff.1 (exec_ownWrites (.inl trivial) hq hcreate hdestroy) t ht
  exact ⟨hcount, hslots.of_factor Instance.without_variant, fun h => hslots.of_factor (Instance.without_remap · h),
    fun h => hslots.of_factor (Instance.without_mask · h), fun h => hslots.of_factor (Instance.without_tables · h),
    fun h => hslots.of_factor (Instance.without_cb · h), fun h => hslots.of_factor (Instance.without_segment · h),
    fun h1 h2 h3 h4 => hslots.of_factor (Instance.without_total · h1 h2 h3 h4),
    fun h1 h2 h3 => hslots.of_factor (Instance.without_rb · h1 h2 h3),
    fun h1 h2 => hactive (writesActive_eq_false h1 h2),
    fun h1 h2 h3 h4 h5 => hcur (writesCur_eq_false h1 h2 h3 h4 h5),
    fun h1 h2 h3 h4 h5 h6 => hwctx (writesWctx_eq_false h1 h2 h3 h4 h5 h6)⟩

/-- CREATE with nothing nested: init, on an initialised block, violates nothing. -/
theorem createBy_viol (nest : Nest) {s : State} {b v : BitVec 8} (hp : firstViolation (.create b v) s = none)
    (hq : s.quiet = true) (hw : s.count + 1#32 ≠ 0#32) :
    Ends False (createBy nest b v s) fun t => t.viol = s.viol := by
  have hslot := raises_eq_false hp .badSlot
  have hopen := raises_eq_false hp .doubleOpen
  have hvariant := raises_eq_false hp .badVariant
  simp only [raises] at hslot hopen hvariant
  unfold createBy
  split
  · next hn => simp [hn] at hslot
  · next a _ =>
    split
    · next ha => simp [ha] at hopen
    · split
      · next hn => simp [hn] at hvariant
      · next w _ =>
        have hfilled : (createFilled s a w).slot a = some (Instance.fresh w) := by simp [createFilled]
        refine ends_doOpen (.inr (by simp [hfilled])) fun i hi =>
          (running_opened_quietRun nest hi).invokeVoid (quietRun_opened (s := createFilled s a w) hq) fun u hu =>
            ends_createEnd ?_ fun _ _ _ _ => hu.viol hw (by simp)
        obtain ⟨x, hx, hc⟩ := (hu.closable rfl (by simp [hi])).resolve_left id
        obtain rfl : x = a := by simpa [hx] using hu.active
        exact .inr hc

/-- Settles O19: the engine and the handlers run with every check passed, and `OwnWrites` leaves VIOL alone. -/
theorem completesWithoutViolation : Obligations.CompletesWithoutViolation := by
  intro i s hp hs hq hcreate
  refine ends_false_iff.1 ?_
  by_cases hc : ∃ b v, i = .create b v
  · obtain ⟨b, v, rfl⟩ := hc
    exact createBy_viol s.nest hp hq (hcreate ⟨b, v, rfl⟩)
  by_cases hd : i = .destroy
  · subst hd
    exact ends_execDestroy (fun ha => absurd (raises_eq_false hp .destroyActive)
      (by simp [raises, ha])) fun _ => rfl
  · exact (exec_ownWrites (.inr hs) hq (fun b v h => hc ⟨b, v, h⟩) hd).mono fun t ht => ht.viol hp

end Sys2Proof.Machine
end

section
/-! CREATE (R32, R100, R124): the engine's init runs on a fresh instance, which maps no page and calls no handler. -/

namespace Sys2Proof.Machine

/-- An instance that maps no page, has no callback and fetches 0 as 0. -/
structure Instance.Blank (i : Instance) : Prop where
  rd : ∀ p, i.rd.entry p = none
  wr : ∀ p, i.wr.entry p = none
  fe : ∀ p, i.fe.entry p = none
  cb : ∀ j : CbIndex, i.cb[j] = none
  remap : i.remap.entry 0#8 = 0#8

theorem scramble_zero : scramble 0#8 = 0#8 := permuteBits_zero _

theorem Instance.fresh_blank (v : Variant) : (Instance.fresh v).Blank where
  rd p := by simp [Instance.fresh, PageTable.entry]
  wr p := by simp [Instance.fresh, PageTable.entry]
  fe p := by simp [Instance.fresh, PageTable.entry]
  cb j := by simp [Instance.fresh]
  remap := by simp [Instance.fresh, initialRemap_entry, scramble_zero]

theorem translateAddr_of_null {t : PageTable} (h : ∀ p, t.entry p = none) (mask addr : Addr) :
    (translateAddr t mask addr).2 = none := by
  simp [translateAddr, h]

/-- What accesses of a blank active instance leave, with the port transfers they add: the block but for WCTX, RES and
VIOL, and host memory. Under `clean` they violate nothing and read 0. -/
structure BlankRun (clean : Prop) (s t : State) (new : List PortEvent) : Prop where
  count : t.count = s.count
  active : t.active = s.active
  slots : t.slots = s.slots
  cur : t.cur = s.cur
  mem : t.env.mem = s.env.mem
  ports : t.env.ports = s.env.ports ++ new
  calls : ectlCalls new = []
  hmem : hmemCount new = 0
  cb : cbCount new = 0
  viol : clean → t.viol = s.viol
  reads : clean → ∀ k d w r, .ebus k d w r ∈ new → r = 0#8

theorem ectlCalls_append (xs ys : List PortEvent) : ectlCalls (xs ++ ys) = ectlCalls xs ++ ectlCalls ys := by
  induction xs with
  | nil => rfl
  | cons x xs ih => cases x <;> simp [ectlCalls, ih]

theorem hmemCount_append (xs ys : List PortEvent) : hmemCount (xs ++ ys) = hmemCount xs + hmemCount ys :=
  List.countP_append

theorem cbCount_append (xs ys : List PortEvent) : cbCount (xs ++ ys) = cbCount xs + cbCount ys :=
  List.countP_append

theorem BlankRun.of_setWctx {p : Prop} {s t : State} {w : WorkingContext} {new : List PortEvent}
    (h : BlankRun p (s.setWctx w) t new) : BlankRun p s t new :=
  ⟨h.count, h.active, h.slots, h.cur, h.mem, h.ports, h.calls, h.hmem, h.cb, h.viol, h.reads⟩

theorem BlankRun.trans {p q r : Prop} {s t u : State} {xs ys : List PortEvent} (h : BlankRun p s t xs)
    (g : BlankRun q t u ys) (hp : r → p) (hq : r → q) : BlankRun r s u (xs ++ ys) where
  count := g.count.trans h.count
  active := g.active.trans h.active
  slots := g.slots.trans h.slots
  cur := g.cur.trans h.cur
  mem := g.mem.trans h.mem
  ports := by rw [g.ports, h.ports, List.append_assoc]
  calls := by rw [ectlCalls_append, h.calls, g.calls, List.append_nil]
  hmem := by rw [hmemCount_append, h.hmem, g.hmem]
  cb := by rw [cbCount_append, h.cb, g.cb]
  viol hr := (g.viol (hq hr)).trans (h.viol (hp hr))
  reads hr k d w x hx := (List.mem_append.1 hx).elim (h.reads (hp hr) k d w x) (g.reads (hq hr) k d w x)

theorem commonChecks_of_zero {s : State} (hc : s.count = 0#32) (k : Slot → Out) :
    commonChecks s k = .next (s.violate .noInit) := by
  simp [commonChecks, checkInit, hc, violation]

/-- A bus access of an uninitialised block or of an illegal kind is a violation (R85, R232). -/
theorem busCommand_violates {nest : Nest} {s : State} {kind : BitVec 3}
    (h : ¬ s.count ≠ 0#32 ∨ ¬ kind.toNat < 6) (addr : Addr) (wdata : Byte) :
    ∃ v, busCommand nest kind addr wdata s = .next (s.violate v) := by
  by_cases hk : kind.toNat < 6
  · have hc : s.count = 0#32 := not_ne_iff.1 (h.resolve_right (not_not_intro hk))
    refine ⟨.noInit, ?_⟩
    unfold busCommand
    split
    case h_7 => exact absurd hk (by grind)
    all_goals exact commonChecks_of_zero hc _
  · refine ⟨.badCommand, ?_⟩
    have hk : kind.toNat = 6 ∨ kind.toNat = 7 := by omega
    rcases hk with hk | hk <;> simp [busCommand, hk, violation]

section
variable {nest : Nest} {s : State} {a : Slot} {i : Instance}

theorem pagedRead_of_blank (ha : s.active = some a) (hi : s.slot a = some i) {table : Instance → PageTable}
    (ht : ∀ p, (table i).entry p = none) (hb : i.Blank) (sel : CbIndex) (addr : Addr) (k : Byte → State → Out) :
    pagedRead nest table sel addr s k = k 0#8 s := by
  rw [pagedRead, withActive_of ha hi, translateAddr_of_null ht]
  simp only [hb.cb]

variable (ha : s.active = some a) (hi : s.slot a = some i) (hb : i.Blank)
include ha hi hb

/-- A legal bus access of a blank instance answers 0 and does nothing (R44 to R46). -/
theorem busCommand_of_blank (hc : s.count ≠ 0#32) {kind : BitVec 3} (hk : kind.toNat < 6) (addr : Addr) (wdata : Byte) :
    busCommand nest kind addr wdata s = .next (s.setRes 0#32) := by
  unfold busCommand
  split
  · rw [readByteBy, commonChecks_of hc ha, pagedRead_of_blank ha hi hb.rd hb]; rfl
  · rw [writeByteBy, commonChecks_of hc ha, withActive_of ha hi, translateAddr_of_null hb.wr]; simp only [hb.cb]; rfl
  · rw [readOpBy, commonChecks_of hc ha, pagedRead_of_blank ha hi hb.fe hb, withActive_of ha hi, hb.remap]; rfl
  · rw [readArgBy, commonChecks_of hc ha, pagedRead_of_blank ha hi hb.fe hb]; rfl
  · rw [readPortBy, commonChecks_of hc ha, withActive_of ha hi]; simp only [hb.cb]; rfl
  · rw [writePortBy, commonChecks_of hc ha, withActive_of ha hi]; simp only [hb.cb]; rfl
  · exact absurd hk (by grind)

/-- A bus access of a blank instance, uninitialised blocks and illegal kinds included. -/
theorem busAccess_of_blank (kind : BitVec 3) (addr : Addr) (wdata : Byte) :
    ∃ t new, busAccess nest kind addr wdata s = .next t ∧ BlankRun (s.count ≠ 0#32 ∧ kind.toNat < 6) s t new ∧
      t.wctx = s.wctx := by
  by_cases hclean : s.count ≠ 0#32 ∧ kind.toNat < 6
  · refine ⟨(s.setRes 0#32).log (.ebus kind addr wdata 0#8), [.ebus kind addr wdata 0#8],
      by rw [busAccess, busCommand_of_blank ha hi hb hclean.1 hclean.2]; rfl, ?_, rfl⟩
    exact ⟨rfl, rfl, rfl, rfl, rfl, rfl, rfl, rfl, rfl, fun _ => rfl, fun _ k d w r hr => by simp_all⟩
  · obtain ⟨v, hv⟩ := busCommand_violates (nest := nest) (not_and_or.1 hclean) addr wdata
    refine ⟨(s.violate v).log (.ebus kind addr wdata (busData violationResult)),
      [.warn v, .ebus kind addr wdata (busData violationResult)], by rw [busAccess, hv]; rfl, ?_, rfl⟩
    exact ⟨rfl, rfl, rfl, rfl, rfl, by simp, rfl, rfl, rfl, fun h => absurd h hclean, fun h => absurd h hclean⟩

end

/-- An engine behaviour of a blank active instance: of WCTX it leaves what it wrote last. -/
theorem engineActs_of_blank {nest : Nest} {a : Slot} {i : Instance} (hb : i.Blank) (acts : List EngineAct) :
    ∀ (s : State) (c : Ctx), s.active = some a → s.slot a = some i → s.wctx = .live c →
      ∃ t new, engineActs nest acts s = .next t ∧
        BlankRun (s.count ≠ 0#32 ∧ acts.all EngineAct.isLegal = true) s t new ∧
          t.wctx = .live (contextAfter acts c) := by
  induction acts with
  | nil =>
    exact fun s c _ _ hc => ⟨s, [], rfl, ⟨rfl, rfl, rfl, rfl, rfl, by simp, rfl, rfl, rfl, fun _ => rfl, nofun⟩, hc⟩
  | cons act rest ih =>
    intro s c ha hi hc
    cases act with
    | setContext d =>
      obtain ⟨t, new, ht, hrun, hd⟩ := ih (s.setWctx (.live d)) d ha hi rfl
      exact ⟨t, new, ht, hrun.of_setWctx, hd⟩
    | access kind addr wdata =>
      obtain ⟨u, xs, hu, hrun, hw⟩ := busAccess_of_blank (nest := nest) ha hi hb kind addr wdata
      obtain ⟨t, ys, ht, hrest, hd⟩ :=
        ih u c (hrun.active.trans ha) (by rwa [State.ext_slots hrun.slots]) (hw.trans hc)
      simp only [List.all_cons, Bool.and_eq_true]
      refine ⟨t, xs ++ ys, by rw [engineActs, hu, andThen_next, ht], ?_, hd⟩
      exact hrun.trans hrest (fun ⟨hc, hkind, _⟩ => ⟨hc, of_decide_eq_true hkind⟩)
        fun ⟨hc, _, hl⟩ => ⟨by rwa [hrun.count], hl⟩

/-- The state in which the engine's init runs: the new slot is filled and open (R100). -/
def initStart (s : State) (a : Slot) (v : Variant) : State :=
  (nextEngine (opened (createFilled s a v) a (Instance.fresh v)) (routineOf v .init) .init Ctx.zero).2.log
    (.ectl a (routineOf v .init) .init)

/-- The script that the engine's init follows. -/
def initScript (s : State) (v : Variant) : EngineScript := (nextEngine s (routineOf v .init) .init Ctx.zero).1

theorem nextEngine_fst_congr {s t : State} (he : t.env.engineIn = s.env.engineIn) (hs : t.env.serial = s.env.serial)
    (r : Routine) (call : EngineCall) (c : Ctx) : (nextEngine t r call c).1 = (nextEngine s r call c).1 := by
  unfold nextEngine
  rw [he, hs]
  cases s.env.engineIn <;> rfl

section
variable (s : State) (a : Slot) (v : Variant)

theorem initStart_count : (initStart s a v).count = s.count + 1#32 := by simp [initStart, createFilled]
theorem initStart_active : (initStart s a v).active = some a := by simp [initStart]
theorem initStart_slot (b : Slot) : (initStart s a v).slot b = if a = b then some (Instance.fresh v) else s.slot b := by
  simp [initStart, createFilled, State.setSlot_slot]
theorem initStart_cur : (initStart s a v).cur = 0#32 := by simp [initStart, Instance.fresh]
theorem initStart_wctx : (initStart s a v).wctx = .live Ctx.zero := by
  simp [initStart, Instance.fresh, loadContext]
theorem initStart_viol : (initStart s a v).viol = s.viol := by simp [initStart, createFilled]
theorem initStart_mem : (initStart s a v).env.mem = s.env.mem := by simp [initStart, createFilled, opened]
theorem initStart_ports : (initStart s a v).env.ports =
    s.env.ports ++ [.ectl a .shared .loadContext, .ectl a (routineOf v .init) .init] := by
  simp [initStart, createFilled, opened]

end

/-- CREATE, its checks passed: init runs on the fresh instance and leaves its context there (R100). -/
theorem createBy_of_passed (nest : Nest) {s : State} {b vb : BitVec 8} {a : Slot} {v : Variant} (hb : slotOf b = some a)
    (hn : s.active = none) (hv : variantOf vb = some v) :
    ∃ t new, createBy nest b vb s =
        .next ((closed t a (Instance.fresh v) (contextAfter (initScript s v).acts Ctx.zero)).setRes 0#32) ∧
      BlankRun (s.count + 1#32 ≠ 0#32 ∧ (initScript s v).acts.all EngineAct.isLegal = true) (initStart s a v) t
        new := by
  have hfilled : (createFilled s a v).slot a = some (Instance.fresh v) := by simp [createFilled]
  have hslot : (initStart s a v).slot a = some (Instance.fresh v) := by simp [initStart_slot]
  have hscript : (nextEngine (opened (createFilled s a v) a (Instance.fresh v)) (routineOf v .init) .init Ctx.zero).1 =
      initScript s v :=
    nextEngine_fst_congr (s := s) (t := opened (createFilled s a v) a (Instance.fresh v)) rfl rfl _ _ _
  obtain ⟨t, new, ht, hrun, hw⟩ := engineActs_of_blank (nest := nest) (Instance.fresh_blank v) (initScript s v).acts
    (initStart s a v) Ctx.zero (initStart_active s a v) hslot (initStart_wctx s a v)
  rw [initStart_count] at hrun
  refine ⟨t, new, ?_, hrun⟩
  have hopen : (opened (createFilled s a v) a (Instance.fresh v)).slot a = some (Instance.fresh v) := hfilled
  calc createBy nest b vb s
      = doOpen (createFilled s a v) a fun t => invokeVoid nest .init t (createEnd a) := by
        simp only [createBy, hb, hn, hv, ne_eq, not_true_eq_false, if_false]
    _ = andThen (engineActs nest (initScript s v).acts (initStart s a v)) (createEnd a) := by
        rw [doOpen_of hfilled, invokeVoid, invoke_of (c := Ctx.zero) rfl hopen rfl]
        simp only [← hscript]
        rfl
    _ = .next ((closed t a (Instance.fresh v) (contextAfter (initScript s v).acts Ctx.zero)).setRes 0#32) := by
        have hlive : t.slot a = some (Instance.fresh v) := (State.ext_slots hrun.slots a).trans hslot
        rw [ht, andThen_next, createEnd, withInstance_of hlive, withContext_of hw]
        rfl

theorem variantOf_eq_none {vb : BitVec 8} : variantOf vb = none ↔ 4 ≤ vb.toNat := by
  unfold variantOf
  split
  · next h => simp; exact h
  · next h => simp; exact Nat.le_of_not_lt h

theorem createBy_of_badSlot (nest : Nest) {b : BitVec 8} (hb : 8 ≤ b.toNat) (vb : BitVec 8) (s : State) :
    createBy nest b vb s = .next (s.violate .badSlot) := by
  simp only [createBy, slotOf_eq_none.2 hb]
  rfl

theorem createBy_of_active (nest : Nest) {s : State} {b : BitVec 8} (hb : b.toNat < 8) (ha : s.active ≠ none)
    (vb : BitVec 8) : createBy nest b vb s = .next (s.violate .doubleOpen) := by
  have hslot : slotOf b = some ⟨b.toNat, hb⟩ := slotOf_eq_some.2 rfl
  simp only [createBy, hslot, if_pos ha]
  rfl

theorem createBy_of_badVariant (nest : Nest) {s : State} {b vb : BitVec 8} (hb : b.toNat < 8) (ha : s.active = none)
    (hv : 4 ≤ vb.toNat) : createBy nest b vb s = .next (s.violate .badVariant) := by
  have hslot : slotOf b = some ⟨b.toNat, hb⟩ := slotOf_eq_some.2 rfl
  simp only [createBy, hslot, if_neg (not_ne_iff.2 ha), variantOf_eq_none.2 hv]
  rfl

/-- The port transfers of CREATE are its three engine calls, with those of init's accesses between. -/
def createPorts (a : Slot) (v : Variant) (new : List PortEvent) : List PortEvent :=
  [.ectl a .shared .loadContext, .ectl a (routineOf v .init) .init] ++ new ++ [.ectl a .shared .saveContext]

/-- Settles O20: the checks, then `createBy_of_passed`, whose next state is init's with the new slot closed. -/
theorem createEffect : Obligations.CreateEffect := by
  refine ⟨fun s b vb hb => createBy_of_badSlot s.nest hb vb s, fun s b vb hb ha => createBy_of_active s.nest hb ha vb,
    fun s b vb hb ha hv => createBy_of_badVariant s.nest hb ha hv, fun s b vb a v hb hn hv => ?_⟩
  obtain ⟨t, new, ht, hrun⟩ := createBy_of_passed s.nest (slotOf_eq_some.2 hb) hn hv
  have hcur : t.cur = 0#32 := hrun.cur.trans (initStart_cur s a v)
  have hblank := Instance.fresh_blank v
  have hclosed (c : Slot) := closed_slot t a (Instance.fresh v) (contextAfter (initScript s v).acts Ctx.zero) c
  refine ⟨_, { Instance.fresh v with rb := contextAfter (initScript s v).acts Ctx.zero, total := 0#32 },
    createPorts a v new, ht, ?_, rfl, rfl, initialRemap_entry v, rfl,
    fun p => ⟨hblank.rd p, hblank.wr p, hblank.fe p⟩, hblank.cb, rfl, rfl,
    fun c hc => ?_, hrun.count.trans (initStart_count s a v), rfl, rfl, hcur, rfl, fun h => ?_, ?_, ?_, ?_, ?_,
    fun hw hl => ⟨?_, fun k d w r hr => ?_⟩⟩
  · simp [hclosed, hcur, saveContext]
  · simp [hclosed, hc.symm, State.ext_slots hrun.slots, initStart_slot]
  · exact congrArg (HostMem.look · h.toNat) (hrun.mem.trans (initStart_mem s a v))
  · simp [closed, createPorts, hrun.ports, initStart_ports]
  · simp [createPorts, ectlCalls_append, hrun.calls, ectlCalls]
  · rw [createPorts, hmemCount_append, hmemCount_append, hrun.hmem]; rfl
  · rw [createPorts, cbCount_append, cbCount_append, hrun.cb]; rfl
  · exact (hrun.viol ⟨hw, hl⟩).trans (initStart_viol s a v)
  · exact hrun.reads ⟨hw, hl⟩ k d w r (by simpa [createPorts] using hr)

end Sys2Proof.Machine
end

section
/-! Host memory (R43) and translation (R44). -/

namespace Sys2Proof.Machine

/-! Host memory (R43). -/

/-- Host memory is written by `pokeHost` alone, whatever a command does. -/
theorem Change.memWf {s t : State} (hs : s.MemWf) (h : Change s t) : t.MemWf := by
  cases h with
  | poke h v => exact s.pokeHost_memWf h v hs
  | engine r call c => exact State.memWf_of_mem_eq (nextEngine_mem s r call c) hs
  | handler id sel a => exact State.memWf_of_mem_eq (nextHandler_mem s id sel a) hs
  | snap a => exact State.memWf_of_mem_eq (nextSnap_mem s a) hs
  | _ => exact hs

/-- Settles O13: every change a command is made of keeps the canonical form, and so do the HOST's inputs. -/
theorem stepKeepsMemoryCanonical : Obligations.StepKeepsMemoryCanonical :=
  fun _ _ hs ht => step_keeps (fun _ _ => Change.memWf) (fun _ _ h => h) (fun _ h => h) ht hs

/-- Settles O3: the step is `pokeHost`, whose laws say which byte changes. -/
theorem hostWriteBetweenCommands : Obligations.HostWriteBetweenCommands := by
  intro s h v rest hin
  refine ⟨(s.setHostIn rest).pokeHost h v, step_eq_next.2 (.inr (.inr (.inl ⟨h, v, rest, hin, rfl⟩))),
    ⟨rfl, rfl, rfl, rfl, rfl, rfl⟩, rfl, rfl, fun g hg => ?_, fun hs => ⟨?_, ?_⟩⟩
  · exact (s.setHostIn rest).pokeHost_hostByte_ne h g v hg
  · exact (s.setHostIn rest).pokeHost_hostByte_self h v hs
  · exact (s.setHostIn rest).pokeHost_memWf h v hs

/-- A byte of host memory after a transfer of HWrite. -/
theorem State.hwrite_hostByte {s : State} (hs : s.MemWf) (h g : HostAddr) (v : Byte) :
    (s.hwrite h v).hostByte g = if h = g then v else s.hostByte g := by
  split
  · next he => subst he; exact s.pokeHost_hostByte_self h v hs
  · next hne => exact s.pokeHost_hostByte_ne h g v (Ne.symm hne)

/-! Translation (R44). -/

theorem pageOf_toNat (a : Addr) : (pageOf a).toNat = a.toNat / 256 := by
  have ha : a.toNat < 65536 := a.isLt
  rw [pageOf, BitVec.extractLsb'_toNat, Nat.shiftRight_eq_div_pow]
  exact Nat.mod_eq_of_lt (by omega)

theorem offsetOf_toNat (a : Addr) : (offsetOf a).toNat = a.toNat % 256 := by
  simp [offsetOf]

theorem translateAddr_of_entry_none {t : PageTable} {mask addr : Addr} (h : t.entry (pageOf (addr &&& mask)) = none) :
    (translateAddr t mask addr).2 = none := by
  simp [translateAddr, h]

theorem translateAddr_of_entry_some {t : PageTable} {mask addr : Addr} {base : HostAddr}
    (h : t.entry (pageOf (addr &&& mask)) = some base) :
    (translateAddr t mask addr).2 = some (hostAddr base ((addr &&& mask).toNat % 256)) := by
  simp [translateAddr, h, offsetOf_toNat]

/-- Settles O29: the two values of the page's entry. -/
theorem translationRule : Obligations.TranslationRule :=
  fun _ _ _ => ⟨rfl, translateAddr_of_entry_none, fun _ h =>
    ⟨_, translateAddr_of_entry_some h, hostAddr_toNat _ _⟩⟩

/-- The masked address of a page of the range translates to the byte of the buffer as far from its beginning as the
address is from the beginning of the range's first page (R140, R44). -/
theorem translateAddr_mapPages {t : PageTable} {base : HostAddr} {start stop mask addr : Addr}
    (hstart : start.toNat / 256 ≤ (addr &&& mask).toNat / 256) (hstop : (addr &&& mask).toNat / 256 ≤ stop.toNat / 256)
    (hduty : base.toNat + ((addr &&& mask).toNat - start.toNat / 256 * 256) < 2 ^ 64) :
    ∃ h, (translateAddr (mapPages t (some base) start stop) mask addr).2 = some h ∧
      h.toNat = base.toNat + ((addr &&& mask).toNat - start.toNat / 256 * 256) := by
  have hentry : (mapPages t (some base) start stop).entry (pageOf (addr &&& mask)) =
      some (hostAddr base (((addr &&& mask).toNat / 256 - start.toNat / 256) * 256)) := by
    simp only [mapPages_entry, pageOf_toNat, if_pos (And.intro hstart hstop)]; rfl
  have hpage := hostAddr_toNat base (((addr &&& mask).toNat / 256 - start.toNat / 256) * 256) (by omega)
  refine ⟨_, translateAddr_of_entry_some hentry, ?_⟩
  rw [hostAddr_toNat _ _ (by omega)]
  omega

end Sys2Proof.Machine
end

section
/-! The configuration and access commands on an open instance (R45, R46, R140 to R148), one after another. -/

namespace Sys2Proof.Machine

theorem execAll_pair {x y : Instr} {s u t : State} (hx : exec x s = .next u) (hy : exec y u = .next t) :
    execAll [x, y] s = .next t := by
  simp [execAll, hx, hy]

theorem State.Opened.of_slots {s t : State} {a : Slot} {i : Instance} (h : s.Opened a i) (hc : t.count = s.count)
    (ha : t.active = s.active) (hs : t.slots = s.slots) : t.Opened a i :=
  ⟨hc ▸ h.count, ha.trans h.active, (State.ext_slots hs a).trans h.slot⟩

/-- The state after a configuration command that gives slot `a` the instance `j` (R140 to R143). -/
def State.configured (s : State) (a : Slot) (j : Instance) : State := (s.setSlot a (some j)).setRes 0#32

section
variable {s : State} {a : Slot} {i : Instance} (hs : s.Opened a i)
include hs

theorem State.Opened.configured (j : Instance) : (s.configured a j).Opened a j :=
  ⟨hs.count, hs.active, s.setSlot_slot_self a (some j)⟩

theorem configure_of_opened (f : Instance → Instance) : configure s f = .next (s.configured a (f i)) := by
  rw [configure, withActive_of hs.active hs.slot]; rfl

/-! The configuration commands (R140 to R143). -/

theorem exec_mapRange_of_opened (buffer : Option HostAddr) (start stop : Addr) (kinds : BitVec 3) :
    exec (.mapRange buffer start stop kinds) s = .next (s.configured a (i.mapRange buffer start stop kinds)) :=
  (commonChecks_of hs.count hs.active _).trans (configure_of_opened hs _)

theorem exec_setMask_of_opened {mask : Addr} (hm : maskOk mask = true) :
    exec (.setMask mask) s = .next (s.configured a { i with mask := mask }) :=
  (commonChecks_of hs.count hs.active _).trans <| (if_pos hm).trans (configure_of_opened hs _)

theorem exec_setRemap_of_opened (index value : Byte) :
    exec (.setRemap index value) s = .next (s.configured a { i with remap := i.remap.put index value }) :=
  (commonChecks_of hs.count hs.active _).trans (configure_of_opened hs _)

theorem exec_setCb_of_opened {sel : BitVec 3} {j : CbIndex} (hj : selectorOf sel = some j)
    (handler : Option HandlerId) :
    exec (.setCb sel handler) s = .next (s.configured a { i with cb := i.cb.set j.val handler j.isLt }) := by
  show execSetCb sel handler s = _
  rw [execSetCb, hj]
  exact (commonChecks_of hs.count hs.active _).trans (configure_of_opened hs _)

/-! The byte a read access obtains, on its three paths (R44 to R46). -/

section
variable {nest : Nest} {table : Instance → PageTable} {sel : CbIndex} {addr : Addr} {k : Byte → State → Out}

theorem pagedRead_of_mapped {h : HostAddr} (hm : (translateAddr (table i) i.mask addr).2 = some h) :
    pagedRead nest table sel addr s k = k (s.hostByte h) (s.hread h) := by
  rw [pagedRead, withActive_of hs.active hs.slot, hm]

theorem pagedRead_of_unmapped (hm : (translateAddr (table i) i.mask addr).2 = none) (hcb : i.cb[sel] = none) :
    pagedRead nest table sel addr s k = k 0#8 s := by
  rw [pagedRead, withActive_of hs.active hs.slot, hm]
  simp only [hcb]

theorem pagedRead_of_handler {id : HandlerId} (hm : (translateAddr (table i) i.mask addr).2 = none)
    (hcb : i.cb[sel] = some id) :
    pagedRead nest table sel addr s k = callHandler nest id sel (addr &&& i.mask) none s k := by
  rw [pagedRead, withActive_of hs.active hs.slot, hm]
  simp only [hcb, translate_fst]

end

/-! The access commands on a mapped page (R45). -/

theorem exec_readByte_of_mapped {addr : Addr} {h : HostAddr} (hm : (translateAddr i.rd i.mask addr).2 = some h) :
    exec (.readByte addr) s = .next ((s.hread h).setRes (byteResult (s.hostByte h))) :=
  (commonChecks_of hs.count hs.active _).trans (pagedRead_of_mapped hs hm)

theorem exec_readArg_of_mapped {addr : Addr} {h : HostAddr} (hm : (translateAddr i.fe i.mask addr).2 = some h) :
    exec (.readArg addr) s = .next ((s.hread h).setRes (byteResult (s.hostByte h))) :=
  (commonChecks_of hs.count hs.active _).trans (pagedRead_of_mapped hs hm)

theorem exec_readOp_of_mapped {addr : Addr} {h : HostAddr} (hm : (translateAddr i.fe i.mask addr).2 = some h) :
    exec (.readOp addr) s = .next ((s.hread h).setRes (byteResult (i.remap.entry (s.hostByte h)))) :=
  (commonChecks_of hs.count hs.active _).trans <| (pagedRead_of_mapped hs hm).trans
    (withActive_of (s := s.hread h) hs.active hs.slot _)

theorem exec_writeByte_of_mapped {addr : Addr} {data : Byte} {h : HostAddr}
    (hm : (translateAddr i.wr i.mask addr).2 = some h) :
    exec (.writeByte addr data) s = .next ((s.hwrite h data).setRes 0#32) := by
  refine (commonChecks_of hs.count hs.active _).trans ((withActive_of hs.active hs.slot _).trans ?_)
  rw [hm]; rfl

/-! Where the page is not mapped, and on the ports (R46, R148). -/

theorem exec_writeByte_of_unmapped {addr : Addr} {data : Byte} (hm : (translateAddr i.wr i.mask addr).2 = none)
    (hcb : i.cb[cbByteWrite] = none) : exec (.writeByte addr data) s = .next (s.setRes 0#32) := by
  refine (commonChecks_of hs.count hs.active _).trans ((withActive_of hs.active hs.slot _).trans ?_)
  simp only [hm, hcb]; rfl

theorem exec_writeByte_of_handler {addr : Addr} {data : Byte} {id : HandlerId}
    (hm : (translateAddr i.wr i.mask addr).2 = none) (hcb : i.cb[cbByteWrite] = some id) :
    exec (.writeByte addr data) s =
      callHandler s.nest id cbByteWrite (addr &&& i.mask) (some data) s fun _ t => finish t 0#32 := by
  refine (commonChecks_of hs.count hs.active _).trans ((withActive_of hs.active hs.slot _).trans ?_)
  simp only [hm, hcb, translate_fst]

theorem exec_readPort_of_handler {id : HandlerId} (hcb : i.cb[cbPortRead] = some id) (addr : Addr) :
    exec (.readPort addr) s =
      callHandler s.nest id cbPortRead addr none s fun v t => finish t (byteResult v) := by
  refine (commonChecks_of hs.count hs.active _).trans ((withActive_of hs.active hs.slot _).trans ?_)
  simp only [hcb]

end

/-- Settles O43: the fetch reads the byte at `hf` from the memory that the store at `hw` has left. -/
theorem storeThenFetch : Obligations.StoreThenFetch := by
  intro s a i addr data hw hf hs hmem hmw hmf
  have hs' : ((s.hwrite hw data).setRes 0#32).Opened a i := hs.of_slots rfl rfl rfl
  have hstore := exec_writeByte_of_mapped (data := data) hs hmw
  have hbyte : ((s.hwrite hw data).setRes 0#32).hostByte hf = if hw = hf then data else s.hostByte hf :=
    State.hwrite_hostByte hmem hw hf data
  refine ⟨⟨_, execAll_pair hstore (exec_readArg_of_mapped hs' hmf), ?_⟩,
    ⟨_, execAll_pair hstore (exec_readOp_of_mapped hs' hmf), ?_⟩⟩
  · rw [← hbyte]; rfl
  · rw [← hbyte]; rfl

end Sys2Proof.Machine
end

section
/-! Page precedence (R45, R46), and configuration that takes effect at once (R55, R279). -/

namespace Sys2Proof.Machine

/-- What follows an access in its command only sets RES, as long as the access leaves the slots. -/
def SetsResult (s : State) (k : Byte → State → Out) : Prop :=
  ∀ (v : Byte) (u : State), u.active = s.active → u.slots = s.slots → ∃ r, k v u = .next (u.setRes r)

theorem setsResult_finish (s : State) (f : Byte → Result) : SetsResult s fun v t => finish t (f v) :=
  fun v _ _ _ => ⟨f v, rfl⟩

/-- READOP reads REMAP of the instance that is still active (R146). -/
theorem setsResult_remap {s : State} {a : Slot} {i : Instance} (hs : s.Opened a i) :
    SetsResult s fun v t => withActive t fun _ j => finish t (byteResult (j.remap.entry v)) :=
  fun _ _ ha hslots => ⟨_, withActive_of (ha.trans hs.active) ((State.ext_slots hslots a).trans hs.slot) _⟩

/-- With nothing nested a handler call adds its one transfer on port CB to the ports (R151). -/
theorem callHandler_of_quiet (nest : Nest) {s : State} (hq : s.quiet = true) (id : HandlerId) (sel : CbIndex) (a : Addr)
    (d : Option Byte) {k : Byte → State → Out} (hk : SetsResult s k) :
    ∃ t, callHandler nest id sel a d s k = .next t ∧ t.env.ports = s.env.ports ++ [.cb id sel a d] := by
  rw [callHandler_of_writes nest id sel a d s k (nextHandler_isWrite hq id sel a)]
  have hblock := State.pokeAll_sameBlock (nextHandler s id sel a).1.acts
    ((nextHandler s id sel a).2.log (.cb id sel a d))
  obtain ⟨r, hr⟩ := hk (nextHandler s id sel a).1.answer _ (by simp) (hblock.slots.trans (by simp))
  exact ⟨_, hr, by simp⟩

/-- The transfers of an access that begins in `s`: one on HMEM where the page is mapped, else one on CB where a handler
is registered, which issues no nested command. -/
def Precedes (s : State) (o : Out) (mapped : Option HostAddr) (handler : Option HandlerId) : Prop :=
  (mapped ≠ none →
      ∃ t new, o = .next t ∧ t.env.ports = s.env.ports ++ new ∧ hmemCount new = 1 ∧ cbCount new = 0) ∧
    (mapped = none → s.quiet = true →
      ∃ t new, o = .next t ∧ t.env.ports = s.env.ports ++ new ∧ hmemCount new = 0 ∧
        cbCount new = if handler = none then 0 else 1)

theorem precedes_of_mapped {s t : State} {o : Out} {h : HostAddr} {e : PortEvent} (ho : o = .next t)
    (hp : t.env.ports = s.env.ports ++ [e]) (he : hmemCount [e] = 1 ∧ cbCount [e] = 0) (handler : Option HandlerId) :
    Precedes s o (some h) handler :=
  ⟨fun _ => ⟨t, [e], ho, hp, he⟩, fun h => by cases h⟩

theorem precedes_of_unmapped {s t : State} {o : Out} (ho : o = .next t) (hp : t.env.ports = s.env.ports) :
    Precedes s o none none :=
  ⟨fun h => absurd rfl h, fun _ _ => ⟨t, [], ho, by simp [hp], rfl, rfl⟩⟩

theorem precedes_of_handler (nest : Nest) {s : State} (id : HandlerId) (sel : CbIndex) (a : Addr) (d : Option Byte)
    {k : Byte → State → Out} (hk : SetsResult s k) :
    Precedes s (callHandler nest id sel a d s k) none (some id) := by
  refine ⟨fun h => absurd rfl h, fun _ hq => ?_⟩
  obtain ⟨t, ht, hp⟩ := callHandler_of_quiet nest hq id sel a d hk
  exact ⟨t, _, ht, hp, rfl, rfl⟩

section
variable {s : State} {a : Slot} {i : Instance} (hs : s.Opened a i)
include hs

theorem pagedRead_precedes {table : Instance → PageTable} {sel : CbIndex} {addr : Addr} {k : Byte → State → Out}
    (hk : SetsResult s k) :
    Precedes s (commonChecks s fun _ => pagedRead s.nest table sel addr s k) (translateAddr (table i) i.mask addr).2
      i.cb[sel] := by
  rw [commonChecks_of hs.count hs.active]
  cases hm : (translateAddr (table i) i.mask addr).2 with
  | some h =>
    obtain ⟨r, hr⟩ := hk (s.hostByte h) (s.hread h) rfl rfl
    exact precedes_of_mapped ((pagedRead_of_mapped hs hm).trans hr) rfl ⟨rfl, rfl⟩ _
  | none =>
    cases hcb : i.cb[sel] with
    | none =>
      obtain ⟨r, hr⟩ := hk 0#8 s rfl rfl
      exact precedes_of_unmapped ((pagedRead_of_unmapped hs hm hcb).trans hr) rfl
    | some id =>
      rw [pagedRead_of_handler hs hm hcb]
      exact precedes_of_handler _ _ _ _ _ hk

theorem writeByte_precedes (addr : Addr) (data : Byte) :
    Precedes s (exec (.writeByte addr data) s) (translateAddr i.wr i.mask addr).2 i.cb[cbByteWrite] := by
  cases hm : (translateAddr i.wr i.mask addr).2 with
  | some h => exact precedes_of_mapped (exec_writeByte_of_mapped hs hm) rfl ⟨rfl, rfl⟩ _
  | none =>
    cases hcb : i.cb[cbByteWrite] with
    | none => exact precedes_of_unmapped (exec_writeByte_of_unmapped hs hm hcb) rfl
    | some id =>
      rw [exec_writeByte_of_handler hs hm hcb]
      exact precedes_of_handler _ _ _ _ _ (setsResult_finish s fun _ => 0#32)

end

/-- Settles O42: three of the commands are a paged read each. -/
theorem pagePrecedence : Obligations.PagePrecedence := by
  intro s a i addr data hs r hr
  simp only [List.mem_cons, List.not_mem_nil, or_false] at hr
  rcases hr with rfl | rfl | rfl | rfl
  · exact pagedRead_precedes hs (table := Instance.rd) (setsResult_finish s byteResult)
  · exact writeByte_precedes hs addr data
  · exact pagedRead_precedes hs (table := Instance.fe) (setsResult_remap hs)
  · exact pagedRead_precedes hs (table := Instance.fe) (setsResult_finish s byteResult)

/-! Configuration takes effect at once (R55, R279). -/

theorem maskOk_iff (mask : Addr) : maskOk mask = true ↔ mask.toNat % 256 = 0xFF := by
  simp [maskOk, ← BitVec.toNat_inj, offsetOf_toNat]

/-- READPORT with a handler that issues no nested command makes one transfer, on port CB (R148). -/
theorem exec_readPort_ports {s : State} {a : Slot} {i : Instance} (hs : s.Opened a i) (hq : s.quiet = true)
    {id : HandlerId} (hcb : i.cb[cbPortRead] = some id) (addr : Addr) :
    ∃ t, exec (.readPort addr) s = .next t ∧ t.env.ports = s.env.ports ++ [.cb id cbPortRead addr none] := by
  rw [exec_readPort_of_handler hs hcb]
  exact callHandler_of_quiet _ hq _ _ _ _ (setsResult_finish s byteResult)

/-- Settles O44: the access is made on the configured instance; host memory and the queued scripts are as before. -/
theorem configurationTakesEffectNext : Obligations.ConfigurationTakesEffectNext := by
  intro s a i addr hs
  refine ⟨fun base start stop kinds hk hstart hstop hduty => ?_, fun mask h hmask hm => ?_, fun h value hm => ?_,
    fun id hq => ?_⟩
  · obtain ⟨h, hm, hh⟩ := translateAddr_mapPages (t := i.rd) hstart hstop hduty
    have hrd : (translateAddr (i.mapRange (some base) start stop kinds).rd i.mask addr).2 = some h := by
      simpa [Instance.mapRange, hk] using hm
    exact ⟨_, h, execAll_pair (exec_mapRange_of_opened hs _ _ _ _) (exec_readByte_of_mapped (hs.configured _) hrd), hh,
      rfl⟩
  · exact ⟨_, execAll_pair (exec_setMask_of_opened hs ((maskOk_iff mask).2 hmask))
      (exec_readByte_of_mapped (hs.configured _) hm), rfl⟩
  · refine ⟨_, execAll_pair (exec_setRemap_of_opened hs _ _) (exec_readOp_of_mapped (hs.configured _) hm), ?_⟩
    exact congrArg byteResult ((i.remap.put_entry (s.hostByte h) value (s.hostByte h)).trans (if_pos rfl))
  · obtain ⟨t, ht, hp⟩ := exec_readPort_ports (hs.configured { i with cb := i.cb.set 0 (some id) }) hq (id := id)
      (by simp [cbPortRead]) addr
    exact ⟨t, execAll_pair (exec_setCb_of_opened hs (j := cbPortRead) rfl _) ht, hp⟩

end Sys2Proof.Machine
end

section
/-! The operands of a command word in their fields (R73 to R81): reading a field undoes writing it, and writing back
what was read keeps exactly the bits that the format uses. -/

namespace Sys2Proof

/-! `kinds` of MAPRANGE and `sel` of SETCB (R73, R76). -/

@[simp] theorem extract_setWidth_three (k : BitVec 3) : (k.setWidth 8).extractLsb' 0 3 = k := by decide +revert

theorem setWidth_extract_three (x : BitVec 8) : (x.extractLsb' 0 3).setWidth 8 = x &&& 7#8 := by decide +revert

/-! The cycle operand of RUN and IDLE (R80). -/

@[simp] theorem extract_setWidth_cycles (n : Cycles) : (n.setWidth 64).extractLsb' 0 32 = n := by
  rw [← BitVec.setWidth_eq_extractLsb' (by decide), BitVec.setWidth_setWidth_of_le _ (by decide), BitVec.setWidth_eq]

theorem setWidth_extract_cycles (w : BitVec 64) : (w.extractLsb' 0 32).setWidth 64 = w &&& 0xFFFFFFFF#64 := by
  apply BitVec.eq_of_toNat_eq
  simp [BitVec.toNat_and, Nat.and_two_pow_sub_one_eq_mod w.toNat 32]
  omega

/-! The status of SETIRQ and SETIRQX (R74). -/

@[simp] theorem statusOf_statusCode (status : IrqStatus) : statusOf (statusCode status) = status := by
  cases status <;> rfl

theorem statusCode_statusOf (y : BitVec 8) : statusCode (statusOf y) = y &&& 3#8 := by decide +revert

/-! The flags of SCAN (R81). -/

theorem setWidth_flags (x : BitVec 8) :
    (BitVec.ofBool (x.getLsbD 1) ++ BitVec.ofBool (x.getLsbD 0)).setWidth 8 = x &&& 3#8 := by decide +revert

/-! Pointer operands (R78). -/

theorem nulCode_of_set {y : BitVec 8} (h : y.getLsbD 0 = true) : y &&& 1#8 = nulCode none := by
  rw [nulCode]
  decide +revert

theorem nulCode_of_clear {y : BitVec 8} (h : ¬ y.getLsbD 0 = true) (p : BitVec 64) : y &&& 1#8 = nulCode (some p) := by
  rw [nulCode]
  decide +revert

theorem pointerOperand_code {f : Fields} {p : Option (BitVec 64)} (hy : f.y = nulCode p) (hw : f.w = pointerCode p)
    (k : Option (BitVec 64) → Decoded) : pointerOperand f k = k p := by
  cases p <;> simp [pointerOperand, hy, hw, nulCode, pointerCode]

end Sys2Proof
end

section
/-! What the decoder answers (R72, R82, R83), said once for every word, and its two directions: decoding undoes
encoding, and a word that decodes is the word of its command. -/

namespace Sys2Proof
open Machine

/-- The format of a command (R71, R72). -/
def formatOf : Instr → Fields → Fields
  | .create _ _ => keepFSV
  | .openSlot _ | .getSaved _ => keepFS
  | .mapRange _ _ _ _ => keepFMAP
  | .setMask _ | .readByte _ | .readOp _ | .readArg _ | .readPort _ => keepFA
  | .writeByte _ _ | .writePort _ _ | .writeRom _ _ => keepFAD
  | .setCb _ _ => keepFCB
  | .setRemap _ _ => keepFXY
  | .setIrq _ _ => keepFIRQ
  | .setIrqx _ _ _ => keepFIRQX
  | .run _ | .idle _ => keepFW
  | .scan _ _ => keepFSCAN
  | .destroy | .close | .getActive | .getPc | .getPpc | .cpuReset | .newFrame | .getCur => keepF0

/-! The fields of a command. -/

/-- A command sets only bits that its format uses. -/
theorem formatOf_encodeFields (i : Instr) : formatOf i (encodeFields i) = encodeFields i := by
  cases i with
  | mapRange p _ _ _ => cases p <;> simp [formatOf, encodeFields, keepFMAP, ← setWidth_extract_three, nulCode]
  | setCb _ p => cases p <;> simp [formatOf, encodeFields, keepFCB, ← setWidth_extract_three, nulCode]
  | setIrq _ _ => simp [formatOf, encodeFields, keepFIRQ, ← statusCode_statusOf]
  | setIrqx _ _ _ => simp [formatOf, encodeFields, keepFIRQX, ← statusCode_statusOf]
  | run _ | idle _ => simp [formatOf, encodeFields, keepFW, ← setWidth_extract_cycles]
  | scan driver write => cases driver <;> cases write <;> rfl
  | _ => rfl

theorem illegalOpcode_encodeFields (i : Instr) : illegalOpcode (encodeFields i).op.toNat = false := by
  cases i <;> rfl

theorem illegalSubField_encodeFields {i : Instr} (h : i.wellFormed = true) :
    illegalSubField (encodeFields i) = false := by
  cases i with
  | mapRange p _ _ _ => cases p <;> simp [illegalSubField, encodeFields, nulCode, pointerCode]
  | setCb sel p =>
    have hsel : sel.toNat < 6 := by simpa [Instr.wellFormed, selectorOk, Config.nCallbacks] using h
    have hx : sel.toNat % 256 % 8 = sel.toNat := by omega
    cases p <;> simp [illegalSubField, encodeFields, nulCode, pointerCode, hx, hsel]
  | _ => rfl

/-! Decoding undoes encoding. -/

theorem inFormat_of_kept {keep : Fields → Fields} {f : Fields} (h : keep f = f) (k : Decoded) : inFormat keep f k = k :=
  if_pos h

theorem decodeFields_encodeFields {i : Instr} (h : i.wellFormed = true) : decodeFields (encodeFields i) = .ok i := by
  have hkept := formatOf_encodeFields i
  cases i with
  | mapRange p _ _ _ =>
    refine (inFormat_of_kept hkept _).trans ((pointerOperand_code (p := p) rfl rfl _).trans ?_)
    simp [encodeFields]
  | setCb _ p =>
    refine (inFormat_of_kept hkept _).trans ((pointerOperand_code (p := p) rfl rfl _).trans ?_)
    simpa [encodeFields, Instr.wellFormed] using h
  | setIrq _ _ | setIrqx _ _ _ | run _ | idle _ =>
    refine (inFormat_of_kept hkept _).trans ?_
    simp [encodeFields]
  | scan driver write =>
    refine (inFormat_of_kept hkept _).trans ?_
    cases driver <;> cases write <;> rfl
  | _ => exact inFormat_of_kept hkept _

/-- Settles O8: the decoder on packed fields, and each command's operands in its own format. -/
theorem decodeOfEncode : Obligations.DecodeOfEncode := by
  intro i h
  rw [encode, decode_pack, decodeFields_encodeFields h]

/-! The answers of the decoder. -/

/-- What the decoder can answer on the fields `f`: the opcode is none of R72's; it is that of `i`, whose format does not
use some bit that is 1; a sub-field is illegal; or the fields are those of a command. -/
inductive Decoding (f : Fields) : Decoded → Prop
  | unknown (h : illegalOpcode f.op.toNat = true) : Decoding f (.rejected .unknownOpcode)
  | unusedBit (i : Instr) (hop : f.op = (encodeFields i).op) (h : formatOf i f ≠ f) : Decoding f (.rejected .mustBeZero)
  | subField {e : DecodeError} (he : e ≠ .unknownOpcode) (hop : illegalOpcode f.op.toNat = false)
      (h : illegalSubField f = true) : Decoding f (.rejected e)
  | ok (i : Instr) (hwf : i.wellFormed = true) (h : encodeFields i = f) : Decoding f (.ok i)

section
variable {f : Fields} {keep : Fields → Fields} {i : Instr} (hop : f.op.toNat = (encodeFields i).op.toNat)
  (hkeep : formatOf i = keep)
include hop hkeep

/-- A row of R72, that of `i`. -/
theorem Decoding.of_inFormat {k : Decoded} (hk : keep f = f → Decoding f k) : Decoding f (inFormat keep f k) := by
  unfold inFormat
  split
  · next h => exact hk h
  · next h => exact .unusedBit i (BitVec.eq_of_toNat_eq hop) (hkeep ▸ h)

/-- A row without a pointer operand: its operands are written back where the format keeps them. -/
theorem Decoding.of_operands (hwf : i.wellFormed = true) (h : { encodeFields i with op := f.op } = keep f) :
    Decoding f (inFormat keep f (.ok i)) :=
  .of_inFormat hop hkeep fun hk => .ok i hwf (by rw [← hk, ← h, BitVec.eq_of_toNat_eq hop])

end

/-- The pointer operand of MAPRANGE or SETCB. -/
theorem Decoding.of_pointerOperand {f : Fields} {k : Option (BitVec 64) → Decoded} (hop : f.op = 0x10#8 ∨ f.op = 0x12#8)
    (hk : ∀ p, f.y &&& 1#8 = nulCode p → f.w = pointerCode p → Decoding f (k p)) : Decoding f (pointerOperand f k) := by
  unfold pointerOperand
  split
  · next hnul =>
    split
    · next hw => exact hk none (nulCode_of_set hnul) hw
    · next hw =>
      have hlegal : illegalOpcode f.op.toNat = false := by rcases hop with h | h <;> rw [h] <;> rfl
      exact .subField (by simp) hlegal (by simp [illegalSubField, hop, hnul, hw])
  · next hnul => exact hk (some f.w) (nulCode_of_clear hnul _) rfl

theorem Decoding.of_mapRange {f : Fields} (hop : f.op = 0x10#8) :
    Decoding f (inFormat keepFMAP f
      (pointerOperand f fun p => .ok (.mapRange p f.a f.b (f.x.extractLsb' 0 3)))) := by
  refine .of_inFormat (i := .mapRange none 0 0 0) (congrArg BitVec.toNat hop) rfl fun (hk : keepFMAP f = f) =>
    .of_pointerOperand (.inl hop) fun p hy hw => .ok _ rfl (.trans ?_ hk)
  simp [keepFMAP, encodeFields, setWidth_extract_three, hy, hw, hop]

theorem Decoding.of_setCb {f : Fields} (hop : f.op = 0x12#8) :
    Decoding f (inFormat keepFCB f (pointerOperand f fun p =>
      if selectorOk (f.x.extractLsb' 0 3) then .ok (.setCb (f.x.extractLsb' 0 3) p) else .rejected .badSelector)) := by
  refine .of_inFormat (i := .setCb 0 none) (congrArg BitVec.toNat hop) rfl fun (hk : keepFCB f = f) =>
    .of_pointerOperand (.inr hop) fun p hy hw => ?_
  split
  · next hsel =>
    refine .ok _ hsel (.trans ?_ hk)
    simp [keepFCB, encodeFields, setWidth_extract_three, hy, hw, hop]
  · next hsel =>
    refine .subField (by simp) (by rw [hop]; rfl) ?_
    simp only [selectorOk, Config.nCallbacks, BitVec.extractLsb'_toNat, decide_eq_true_eq] at hsel
    simp [illegalSubField, hop]
    omega

/-- The decoder, row by row: MAPRANGE and SETCB have a pointer operand; SETIRQ, SETIRQX, RUN, IDLE and SCAN use a part
of a field; every other row uses whole fields. -/
theorem decoding (f : Fields) : Decoding f (decodeFields f) := by
  unfold decodeFields
  split
  case h_9 hop => exact .of_mapRange (BitVec.eq_of_toNat_eq hop)
  case h_11 hop => exact .of_setCb (BitVec.eq_of_toNat_eq hop)
  case h_20 hop => exact .of_operands hop rfl rfl (by simp [encodeFields, keepFIRQ, statusCode_statusOf])
  case h_21 hop => exact .of_operands hop rfl rfl (by simp [encodeFields, keepFIRQX, statusCode_statusOf])
  case h_23 hop | h_24 hop =>
    exact .of_operands hop rfl rfl (by simp [encodeFields, keepFW, setWidth_extract_cycles])
  case h_27 hop => exact .of_operands hop rfl rfl (by simp [encodeFields, keepFSCAN, ← setWidth_flags])
  case h_28 =>
    refine .unknown ?_
    simp only [imp_false] at *
    simp only [illegalOpcode, Bool.or_eq_true, Bool.and_eq_true, beq_iff_eq, decide_eq_true_eq]
    omega
  all_goals
    rename_i hop
    exact .of_operands hop rfl rfl rfl

theorem decode_decoding (cw : CommandWord) : Decoding (splitFields cw) (decode cw) := decoding _

/-! What follows of a word from its answer. -/

theorem decode_eq_ok {cw : CommandWord} {i : Instr} (h : decode cw = .ok i) :
    i.wellFormed = true ∧ encodeFields i = splitFields cw := by
  have hd := decode_decoding cw
  rw [h] at hd
  cases hd with
  | ok _ hwf henc => exact ⟨hwf, henc⟩

/-- Settles O9: a word that decodes has the fields of its command, and a word is the packing of its fields. -/
theorem encodeOfDecode : Obligations.EncodeOfDecode := by
  intro cw i h
  obtain ⟨hwf, henc⟩ := decode_eq_ok h
  exact ⟨hwf, by rw [encode, henc, pack_split]⟩

/-- Every other answer is given to an opcode of R72. -/
theorem illegalOpcode_iff (cw : CommandWord) :
    illegalOpcode (splitFields cw).op.toNat = true ↔ decode cw = .rejected .unknownOpcode := by
  have hd := decode_decoding cw
  generalize decode cw = o at hd
  cases hd with
  | unknown h => simp [h]
  | unusedBit i hop _ => simp [hop, illegalOpcode_encodeFields]
  | subField he hop _ => simp [hop, he]
  | ok i _ henc => simp [← henc, illegalOpcode_encodeFields]

end Sys2Proof
end

section
/-! The opcode table (R72): the row of each command is its mnemonic, its opcode and the complement of its format. -/

namespace Sys2Proof
open Machine

/-! Fields bit by bit. -/

def Fields.and (f g : Fields) : Fields :=
  ⟨f.op &&& g.op, f.s &&& g.s, f.x &&& g.x, f.y &&& g.y, f.a &&& g.a, f.b &&& g.b, f.w &&& g.w⟩

def Fields.allOnes : Fields := ⟨.allOnes _, .allOnes _, .allOnes _, .allOnes _, .allOnes _, .allOnes _, .allOnes _⟩

theorem splitFields_and (u v : CommandWord) : splitFields (u &&& v) = (splitFields u).and (splitFields v) := by
  simp [splitFields, Fields.and, BitVec.extractLsb'_and]

theorem splitFields_injective : Function.Injective splitFields := Function.LeftInverse.injective pack_split

theorem and_not_eq_zero_iff {n : Nat} (x m : BitVec n) : x &&& ~~~m = 0#n ↔ x &&& m = x := by
  simp [BitVec.eq_of_getElem_eq_iff]

theorem formatOf_op (i : Instr) (f : Fields) : (formatOf i f).op = f.op := by cases i <;> rfl

/-- A format keeps the bits that it keeps of all ones. -/
theorem formatOf_eq_and (i : Instr) (f : Fields) : formatOf i f = f.and (formatOf i .allOnes) := by
  unfold formatOf
  split <;> simp [keepF0, keepFS, keepFSV, keepFMAP, keepFA, keepFAD, keepFCB, keepFXY, keepFIRQ, keepFIRQX, keepFW,
    keepFSCAN, Fields.and, Fields.allOnes, -BitVec.reduceAllOnes]

/-! The rows. -/

/-- The mask of a format: the opcode and every bit that the format does not use. -/
def maskOf (keep : Fields → Fields) : Fields :=
  ⟨(keep .allOnes).op, ~~~(keep .allOnes).s, ~~~(keep .allOnes).x, ~~~(keep .allOnes).y, ~~~(keep .allOnes).a,
    ~~~(keep .allOnes).b, ~~~(keep .allOnes).w⟩

/-- The row of a command. -/
def rowOf (i : Instr) : String × CommandWord × CommandWord :=
  (mnemonicOf i, packFields { op := (encodeFields i).op }, packFields (maskOf (formatOf i)))

theorem rowOf_mem (i : Instr) : rowOf i ∈ opcodeTable := by
  cases i <;> simp only [rowOf, mnemonicOf, encodeFields, formatOf] <;> decide

/-- A word matches the row of `i` when its opcode is that of `i` and it has a 0 in every bit that the format does not
use. -/
theorem matches_rowOf (i : Instr) (cw : CommandWord) :
    cw &&& (rowOf i).2.2 = (rowOf i).2.1 ↔
      (splitFields cw).op = (encodeFields i).op ∧ formatOf i (splitFields cw) = splitFields cw := by
  have hsplit : cw &&& (rowOf i).2.2 = (rowOf i).2.1 ↔
      (splitFields cw).and (maskOf (formatOf i)) = { op := (encodeFields i).op } := by
    rw [← splitFields_injective.eq_iff, splitFields_and, rowOf, split_pack, split_pack]
  have hop : (formatOf i .allOnes).op = .allOnes 8 := formatOf_op i _
  rw [hsplit, formatOf_eq_and, maskOf]
  generalize splitFields cw = f, formatOf i .allOnes = m at hop
  obtain ⟨op, s, x, y, a, b, w⟩ := f
  simp [Fields.and, hop, and_not_eq_zero_iff, -BitVec.reduceAllOnes]

/-! A row is found by its mnemonic and by its opcode. -/

theorem mnemonics_nodup : (opcodeTable.map fun r => r.1).Nodup := by decide

theorem opcodes_nodup : (opcodeTable.map fun r => (splitFields r.2.1).op).Nodup := by decide

theorem row_opcode_legal : ∀ r ∈ opcodeTable, illegalOpcode (splitFields r.2.1).op.toNat = false := by decide

theorem row_mask_opcode : ∀ r ∈ opcodeTable, (splitFields r.2.2).op = .allOnes 8 := by decide

section
variable {r : String × CommandWord × CommandWord} (hr : r ∈ opcodeTable)
include hr

theorem eq_rowOf_of_mnemonic {i : Instr} (h : mnemonicOf i = r.1) : r = rowOf i :=
  List.inj_on_of_nodup_map mnemonics_nodup hr (rowOf_mem i) h.symm

theorem eq_rowOf_of_opcode {i : Instr} (h : (splitFields r.2.1).op = (encodeFields i).op) : r = rowOf i :=
  List.inj_on_of_nodup_map opcodes_nodup hr (rowOf_mem i) (h.trans (by rw [rowOf, split_pack]))

theorem opcode_of_matches {cw : CommandWord} (h : cw &&& r.2.2 = r.2.1) :
    (splitFields r.2.1).op = (splitFields cw).op := by
  rw [← h, splitFields_and, Fields.and, row_mask_opcode r hr, BitVec.and_allOnes]

end

/-- Settles O6: the row of a decoded command is `rowOf` of it, and a word that matches a row and has legal sub-fields
leaves the decoder one answer. -/
theorem acceptedWordsMatchTable : Obligations.AcceptedWordsMatchTable := by
  refine ⟨rfl, mnemonics_nodup, fun cw r hr => ⟨?_, ?_⟩⟩
  · rintro ⟨i, hi, hname⟩
    obtain ⟨hwf, henc⟩ := decode_eq_ok hi
    rw [eq_rowOf_of_mnemonic hr hname, matches_rowOf, ← henc]
    exact ⟨⟨rfl, formatOf_encodeFields i⟩, illegalSubField_encodeFields hwf⟩
  · rintro ⟨hm, hlegal⟩
    have hop := opcode_of_matches hr hm
    have hd := decode_decoding cw
    generalize decode cw = o at hd
    cases hd with
    | unknown h => simp [← hop, row_opcode_legal r hr] at h
    | unusedBit i hi hne =>
      rw [eq_rowOf_of_opcode hr (hop.trans hi), matches_rowOf] at hm
      exact absurd hm.2 hne
    | subField _ _ h => simp [hlegal] at h
    | ok i _ henc => exact ⟨i, rfl, by rw [eq_rowOf_of_opcode hr (i := i) (by rw [hop, henc]), rowOf]⟩

/-- A word that matches no row, or has an illegal sub-field, spells no command. -/
theorem decode_rejected_of_illegal {cw : CommandWord}
    (h : (∀ r ∈ opcodeTable, cw &&& r.2.2 ≠ r.2.1) ∨ illegalSubField (splitFields cw) = true) :
    ∃ e, decode cw = .rejected e := by
  cases hd : decode cw with
  | rejected e => exact ⟨e, rfl⟩
  | ok i =>
    obtain ⟨hm, hlegal⟩ := (acceptedWordsMatchTable.2.2 cw (rowOf i) (rowOf_mem i)).1 ⟨i, hd, rfl⟩
    rcases h with h | h
    · exact absurd hm (h _ (rowOf_mem i))
    · simp [hlegal] at h

/-- Settles O7: the decoder evaluates on the ten words. -/
theorem sampleWordsDecode : Obligations.SampleWordsDecode := by
  unfold Obligations.SampleWordsDecode
  decide

end Sys2Proof
end

section
/-! Words that spell no command (R82, R83, R238), and the bus accesses as commands (R85, R130). -/

namespace Sys2Proof.Machine

/-! BAD_COMMAND. -/

theorem step_of_rejected {s : State} {cw : CommandWord} {rest : List HostAct} {e : DecodeError}
    (hin : s.env.hostIn = .command cw :: rest) (h : decode cw = .rejected e) :
    step s = answer ((s.setHostIn rest).violate .badCommand) := by
  simp [step_command hin, runWord, h, violation]

theorem serveNested_of_rejected {cw : CommandWord} {e : DecodeError} (h : decode cw = .rejected e) (d : Nat)
    (s : State) : serveNested (d + 1) cw s = answer (s.violate .badCommand) := by
  simp [serveNested, nestedWord, h, violation]

theorem busCommand_of_badKind (nest : Nest) {kind : BitVec 3} (h : 6 ≤ kind.toNat) (addr : Addr) (wdata : Byte)
    (s : State) : busCommand nest kind addr wdata s = .next (s.violate .badCommand) := by
  unfold busCommand
  split
  case h_7 => rfl
  all_goals omega

/-- Settles O4: such a word is rejected by the decoder, and kinds 6 and 7 are no access. -/
theorem illegalWordRaisesBadCommand : Obligations.IllegalWordRaisesBadCommand := by
  refine ⟨fun cw h => ?_, fun s d kind addr wdata hk => busCommand_of_badKind _ hk addr wdata s⟩
  obtain ⟨e, he⟩ := decode_rejected_of_illegal h
  exact ⟨fun s rest hin => step_of_rejected hin he, fun s d => serveNested_of_rejected he d s⟩

/-- Settles O5: by `illegalOpcode_iff` the listed opcodes are those the decoder rejects as unknown. -/
theorem unknownOpcodesRejected : Obligations.UnknownOpcodesRejected :=
  ⟨by decide +kernel, illegalOpcode_iff, fun _ cw _ hin h => step_of_rejected hin ((illegalOpcode_iff cw).1 h)⟩

/-! Bus accesses. -/

/-- The command that a bus access of kind below 6 is (R85). -/
def busInstr (kind : BitVec 3) (addr : Addr) (wdata : Byte) : Instr :=
  match kind.toNat with
  | 0 => .readByte addr
  | 1 => .writeByte addr wdata
  | 2 => .readOp addr
  | 3 => .readArg addr
  | 4 => .readPort addr
  | _ => .writePort addr wdata

theorem busInstr_wellFormed (kind : BitVec 3) (addr : Addr) (wdata : Byte) :
    (busInstr kind addr wdata).wellFormed = true := by
  unfold busInstr
  split <;> rfl

section
variable {kind : BitVec 3} (hk : kind.toNat < 6) (addr : Addr) (wdata : Byte)
include hk

theorem busCommand_eq_nestedCommand (nest : Nest) (s : State) :
    busCommand nest kind addr wdata s = nestedCommand nest (busInstr kind addr wdata) s := by
  obtain ⟨n, _⟩ := kind
  replace hk : n < 6 := hk
  interval_cases n <;> rfl

/-- Opcode 0x18 + kind, `y` the byte of a write, `a` the address (R85). -/
theorem encodeFields_busInstr :
    encodeFields (busInstr kind addr wdata) =
      { op := 0x18#8 + kind.zeroExtend 8, y := if kind = 1#3 ∨ kind = 5#3 then wdata else 0#8, a := addr } := by
  obtain ⟨n, _⟩ := kind
  replace hk : n < 6 := hk
  interval_cases n <;> rfl

end

/-- Settles O45: a bus access is the nested command of `busInstr`, and every depth from `s.scripts` on serves
it as at top level. -/
theorem busAccessIsCommand : Obligations.BusAccessIsCommand := by
  intro s d kind addr wdata hk hd
  have hexec : busCommand (serveNested d) kind addr wdata s = exec (busInstr kind addr wdata) s :=
    calc busCommand (serveNested d) kind addr wdata s
        = nestedCommand (serveNested d) (busInstr kind addr wdata) s := busCommand_eq_nestedCommand hk addr wdata _ s
      _ = nestedCommand s.nest (busInstr kind addr wdata) s :=
          nestedCommand_agree (serveNested_agreeBelow s.scripts hd (Nat.le_refl _)) _ s (Nat.le_refl _)
      _ = exec (busInstr kind addr wdata) s := (exec_eq_nestedCommand _ s).symm
  refine ⟨busInstr kind addr wdata, ?_, hexec, ?_⟩
  · rw [← encodeFields_busInstr hk, decodeFields_encodeFields (busInstr_wellFormed kind addr wdata)]
  · rw [busAccess, hexec]
    rfl

end Sys2Proof.Machine
end

section
/-! The registry but for CREATE (R101 to R104, R106), and the checks that come before every other effect (R232, R234). -/

namespace Sys2Proof.Machine

/-! The common checks. -/

theorem commonChecks_of_noActive {s : State} (hc : s.count ≠ 0#32) (ha : s.active = none) (k : Slot → Out) :
    commonChecks s k = .next (s.violate .noActive) := by
  simp [commonChecks, checkInit_of hc, checkActive, ha, violation]

theorem checkInit_of_zero {s : State} (hc : s.count = 0#32) (k : Out) : checkInit s k = .next (s.violate .noInit) :=
  if_pos hc

/-- A legal callback selector passes the check that SETCB makes before all others (R76, R241). -/
theorem execSetCb_eq_commonChecks {sel : BitVec 3} (hsel : selectorOk sel = true) (handler : Option HandlerId)
    (s : State) : ∃ k, execSetCb sel handler s = commonChecks s k := by
  unfold execSetCb
  split
  · next hnone => simp [selectorOf_eq_none.1 hnone] at hsel
  · exact ⟨_, rfl⟩

/-- A command on the active instance makes the two common checks before anything else (R232, R234, R241). -/
theorem exec_eq_commonChecks {i : Instr} (hwf : i.wellFormed = true) (ha : needsActive i = true) (s : State) :
    ∃ k, exec i s = commonChecks s k := by
  cases i with
  | setCb sel handler => exact execSetCb_eq_commonChecks hwf handler s
  | create | destroy | openSlot | getActive | setIrqx | newFrame | getCur | getSaved | scan => cases ha
  | _ => exact ⟨_, rfl⟩

/-- Every command but CREATE and DESTROY checks that the block is initialised before anything else (R232, R241). -/
theorem exec_eq_checkInit {i : Instr} (hwf : i.wellFormed = true) (hi : needsInit i = true) (s : State) :
    ∃ k, exec i s = checkInit s k := by
  cases i with
  | setCb sel handler =>
    obtain ⟨k, hk⟩ := execSetCb_eq_commonChecks hwf handler s
    exact ⟨checkActive s k, hk⟩
  | create | destroy => cases hi
  | _ => exact ⟨_, rfl⟩

theorem exec_of_count_zero {i : Instr} (hwf : i.wellFormed = true) (hi : needsInit i = true) {s : State}
    (hc : s.count = 0#32) : exec i s = .next (s.violate .noInit) := by
  obtain ⟨k, hk⟩ := exec_eq_checkInit hwf hi s
  rw [hk, checkInit_of_zero hc]

theorem commonViolations_of_needsActive {i : Instr} (hwf : i.wellFormed = true) (ha : needsActive i = true) :
    CommonViolations i := by
  intro s
  obtain ⟨k, hk⟩ := exec_eq_commonChecks hwf ha s
  rw [hk]
  exact ⟨fun hc => commonChecks_of_zero hc k, fun hc hn => commonChecks_of_noActive hc hn k⟩

theorem needsInit_eq_true {i : Instr} (hcreate : ∀ b v, i ≠ .create b v) (hdestroy : i ≠ .destroy) :
    needsInit i = true := by
  cases i with
  | create b v => exact absurd rfl (hcreate b v)
  | destroy => exact absurd rfl hdestroy
  | _ => rfl

/-! DESTROY (R101). -/

/-- The state after DESTROY with no slot active. -/
def State.destroyed (s : State) : State :=
  ((s.setSlots (Vector.replicate Config.maxCpu none)).setCount 0#32).setRes 0#32

theorem State.destroyed_slot (s : State) (a : Slot) : s.destroyed.slot a = none := by
  simp [State.destroyed, State.slot]

theorem exec_destroy_of_active {s : State} (ha : s.active ≠ none) :
    exec .destroy s = .next (s.violate .destroyActive) :=
  if_pos ha

theorem exec_destroy_of_noActive {s : State} (ha : s.active = none) : exec .destroy s = .next s.destroyed :=
  if_neg (not_ne_iff.2 ha)

/-- Settles O21: the state after DESTROY is `destroyed`, whose COUNT of 0 is what NOINIT checks. -/
theorem destroyEffect : Obligations.DestroyEffect := by
  refine ⟨fun s => exec_destroy_of_active, fun s ha => ?_, exec_destroy_of_noActive rfl⟩
  exact ⟨s.destroyed, exec_destroy_of_noActive ha, s.destroyed_slot, rfl, ha, rfl, rfl, rfl, rfl, rfl,
    fun i hwf hcreate hdestroy => exec_of_count_zero hwf (needsInit_eq_true hcreate hdestroy) rfl⟩

/-! OPEN and CLOSE (R102, R103). -/

theorem isLive_eq_false {s : State} {b : BitVec 8} :
    s.isLive b = false ↔ 8 ≤ b.toNat ∨ ∃ a : Slot, b.toNat = a.val ∧ s.slot a = none := by
  unfold State.isLive
  split
  · next h => simp [slotOf_eq_none.1 h]
  · next a h =>
    have hb : b.toNat = a.val := slotOf_eq_some.1 h
    have ha : a.val < 8 := a.isLt
    simp [hb, ha, ← Fin.ext_iff]

theorem checkLive_of_badSlot {s : State} {b : BitVec 8} (hb : s.isLive b = false) (k : Slot → Instance → Out) :
    checkLive s b k = .next (s.violate .badSlot) :=
  checkLive_eq_next.2 (.inl ⟨hb, rfl⟩)

theorem exec_openSlot_of_badSlot {s : State} {b : BitVec 8} (hc : s.count ≠ 0#32) (hb : s.isLive b = false) :
    exec (.openSlot b) s = .next (s.violate .badSlot) :=
  (checkInit_of hc _).trans (checkLive_of_badSlot hb _)

section
variable {s : State} {b : BitVec 8} {a : Slot} {i : Instance} (hc : s.count ≠ 0#32) (hb : b.toNat = a.val)
  (hi : s.slot a = some i)
include hc hb hi

theorem exec_openSlot_of_active (ha : s.active ≠ none) : exec (.openSlot b) s = .next (s.violate .doubleOpen) :=
  (checkInit_of hc _).trans ((checkLive_of (slotOf_eq_some.2 hb) hi _).trans (if_pos ha))

theorem exec_openSlot_of_noActive (ha : s.active = none) :
    exec (.openSlot b) s = .next ((opened s a i).setRes 0#32) :=
  (checkInit_of hc _).trans <| (checkLive_of (slotOf_eq_some.2 hb) hi _).trans <|
    (if_neg (not_ne_iff.2 ha)).trans (doOpen_of hi _)

end

/-- Settles O22: the checks in order, then `opened`. -/
theorem openEffect : Obligations.OpenEffect :=
  ⟨fun _ _ hc => exec_of_count_zero rfl rfl hc, fun _ _ hc hb => exec_openSlot_of_badSlot hc (isLive_eq_false.2 hb),
    fun _ _ _ _ hc hb hi => ⟨exec_openSlot_of_active hc hb hi, exec_openSlot_of_noActive hc hb hi⟩⟩

theorem exec_close_of_ready {s : State} {a : Slot} {i : Instance} {c : Ctx} (hs : s.Ready a i c) :
    exec .close s = .next ((closed s a i c).setRes 0#32) :=
  (commonChecks_of hs.count hs.active _).trans (doClose_of hs.active hs.slot hs.wctx _)

/-- Settles O23: the common checks, then `closed`, which writes the one slot. -/
theorem closeEffect : Obligations.CloseEffect := by
  refine ⟨commonViolations_of_needsActive rfl rfl, fun s a i c hs => ?_⟩
  refine ⟨_, exec_close_of_ready hs, ?_, fun b hb => ?_, rfl, rfl, rfl, rfl, rfl, rfl, rfl⟩
  · exact (closed_slot s a i c a).trans (if_pos rfl)
  · exact (closed_slot s a i c b).trans (if_neg hb.symm)

/-- A slot that is opened is ready for CLOSE, with its saved context (R102). -/
theorem opened_ready {s : State} {a : Slot} {i : Instance} (hc : s.count ≠ 0#32) (hi : s.slot a = some i)
    (r : Result) : ((opened s a i).setRes r).Ready a i (loadContext i.rb) :=
  ⟨⟨hc, rfl, hi⟩, rfl⟩

/-- What CLOSE saves right after OPEN is what OPEN loaded, by `save_load` (R106, R126). -/
theorem closed_opened_slots {s : State} {a : Slot} {i : Instance} (hi : s.slot a = some i) (r : Result) :
    (closed ((opened s a i).setRes r) a i (loadContext i.rb)).slots = s.slots := by
  have hsaved : ({ i with rb := saveContext (loadContext i.rb), total := i.total } : Instance) = i := by
    rw [save_load]
  calc (closed ((opened s a i).setRes r) a i (loadContext i.rb)).slots
      = (s.setSlot a (some { i with rb := saveContext (loadContext i.rb), total := i.total })).slots := rfl
    _ = s.slots := by rw [hsaved, s.setSlot_same a hi]

/-- Settles O25: OPEN leaves a state ready for CLOSE, which puts back the instance that OPEN loaded. -/
theorem openCloseRoundTrip : Obligations.OpenCloseRoundTrip := by
  intro s b a i hc ha hb hi
  have hopen := exec_openSlot_of_noActive hc hb hi ha
  have hclose := exec_close_of_ready (opened_ready hc hi 0#32)
  exact ⟨_, execAll_pair hopen hclose, closed_opened_slots hi 0#32, rfl, rfl, rfl, rfl, fun _ => rfl⟩

/-! GETACTIVE (R104). -/

theorem exec_getActive_of_init {s : State} {o : Option Slot} (hc : s.count ≠ 0#32) (ha : s.active = o) :
    exec .getActive s = .next (s.setRes (activeResult o)) :=
  ha ▸ checkInit_of hc _

theorem activeResult_some_toNat (a : Slot) : (activeResult (some a)).toNat = a.val := by
  have ha : a.val < 8 := a.isLt
  exact Nat.mod_eq_of_lt (show a.val < 4294967296 by omega)

/-- Settles O24: the check of NOINIT, then `activeResult` of the two values of ACTIVE. -/
theorem getActiveEffect : Obligations.GetActiveEffect :=
  ⟨fun _ hc => exec_of_count_zero rfl rfl hc, fun _ hc ha => exec_getActive_of_init hc ha,
    fun _ a hc ha => ⟨_, exec_getActive_of_init hc ha, activeResult_some_toNat a⟩⟩

end Sys2Proof.Machine
end

section
/-! No refusal and no exhausted nesting (R134, R278). A command refuses, or uses up the bound on nesting, only where a
nested command does; and in a state with `n` scripts queued a command issues nested ones only where fewer are left. -/

namespace Sys2Proof.Machine

/-- The outcome is no refusal, and no stop because the bound on nested commands is used up. -/
def Unlimited (o : Out) : Prop := o ≠ .fault .nestingDepth ∧ ∀ r, o ≠ .refused r

theorem unlimited_next (s : State) : Unlimited (.next s) := ⟨nofun, nofun⟩

theorem unlimited_finish (s : State) (r : Result) : Unlimited (finish s r) := unlimited_next _

theorem unlimited_violation (s : State) (v : Violation) : Unlimited (violation s v) := unlimited_next _

theorem Unlimited.andThen {o : Out} {k : State → Out} (ho : Unlimited o) (hk : ∀ s, Unlimited (k s)) :
    Unlimited (andThen o k) := by
  cases o with
  | next s => exact hk s
  | fault f => exact ⟨fun h => ho.1 (by simpa using h), nofun⟩
  | refused r => exact absurd rfl (ho.2 r)

/-! The checks and the accessors. -/

theorem unlimited_checkInit {s : State} {k : Out} (hk : Unlimited k) : Unlimited (checkInit s k) := by
  unfold checkInit
  split
  · exact unlimited_violation s _
  · exact hk

theorem unlimited_commonChecks {s : State} {k : Slot → Out} (hk : ∀ a, Unlimited (k a)) :
    Unlimited (commonChecks s k) := by
  refine unlimited_checkInit ?_
  unfold checkActive
  split
  · exact unlimited_violation s _
  · exact hk _

theorem unlimited_checkLive {s : State} {b : BitVec 8} {k : Slot → Instance → Out} (hk : ∀ a i, Unlimited (k a i)) :
    Unlimited (checkLive s b k) := by
  unfold checkLive
  split
  · exact unlimited_violation s _
  · split
    · exact unlimited_violation s _
    · exact hk _ _

theorem unlimited_withInstance {s : State} {a : Slot} {k : Instance → Out} (hk : ∀ i, Unlimited (k i)) :
    Unlimited (withInstance s a k) := by
  unfold withInstance
  split
  · exact ⟨nofun, nofun⟩
  · exact hk _

theorem unlimited_withActive {s : State} {k : Slot → Instance → Out} (hk : ∀ a i, Unlimited (k a i)) :
    Unlimited (withActive s k) := by
  unfold withActive
  split
  · exact ⟨nofun, nofun⟩
  · exact unlimited_withInstance (hk _)

theorem unlimited_withContext {s : State} {k : Ctx → Out} (hk : ∀ c, Unlimited (k c)) :
    Unlimited (withContext s k) := by
  unfold withContext
  split
  · exact ⟨nofun, nofun⟩
  · exact hk _

theorem unlimited_doOpen {s : State} {a : Slot} {k : State → Out} (hk : ∀ t, Unlimited (k t)) :
    Unlimited (doOpen s a k) :=
  unlimited_withInstance fun _ => hk _

theorem unlimited_doClose {s : State} {k : State → Out} (hk : ∀ t, Unlimited (k t)) : Unlimited (doClose s k) :=
  unlimited_withActive fun _ _ => unlimited_withContext fun _ => hk _

theorem unlimited_configure (s : State) (f : Instance → Instance) : Unlimited (configure s f) :=
  unlimited_withActive fun _ _ => unlimited_finish _ _

/-! The commands during which no nested command can be issued. -/

theorem unlimited_execDestroy (s : State) : Unlimited (execDestroy s) := by
  unfold execDestroy
  split
  · exact unlimited_violation s _
  · exact unlimited_finish _ _

theorem unlimited_execOpen (b : BitVec 8) (s : State) : Unlimited (execOpen b s) := by
  refine unlimited_checkInit (unlimited_checkLive fun a i => ?_)
  split
  · exact unlimited_violation s _
  · exact unlimited_doOpen fun t => unlimited_finish t _

theorem unlimited_execSetMask (mask : Addr) (s : State) : Unlimited (execSetMask mask s) := by
  refine unlimited_commonChecks fun a => ?_
  split
  · exact unlimited_configure s _
  · exact unlimited_violation s _

theorem unlimited_execSetCb (sel : BitVec 3) (handler : Option HandlerId) (s : State) :
    Unlimited (execSetCb sel handler s) := by
  unfold execSetCb
  split
  · exact unlimited_violation s _
  · exact unlimited_commonChecks fun _ => unlimited_configure s _

/-! Commands with nested commands, which are served without a limit. -/

section
variable {nest : Nest} (hn : ∀ cw s, Unlimited (nest cw s))
include hn

theorem unlimited_handlerActs (acts : List HandlerAct) : ∀ s, Unlimited (handlerActs nest acts s) := by
  induction acts with
  | nil => exact unlimited_next
  | cons act rest ih =>
    intro s
    cases act with
    | command cw => exact (hn cw s).andThen ih
    | hostWrite h v => exact ih _

theorem unlimited_snapCommands (cws : List CommandWord) : ∀ s, Unlimited (snapCommands nest cws s) := by
  induction cws with
  | nil => exact unlimited_next
  | cons cw rest ih => exact fun s => (hn cw s).andThen ih

theorem unlimited_callHandler {id : HandlerId} {sel : CbIndex} {a : Addr} {d : Option Byte} {s : State}
    {k : Byte → State → Out} (hk : ∀ v t, Unlimited (k v t)) : Unlimited (callHandler nest id sel a d s k) := by
  refine (unlimited_handlerActs hn _ _).andThen fun t => ?_
  split
  · exact hk _ t
  · exact unlimited_violation t _

theorem unlimited_pagedRead {table : Instance → PageTable} {sel : CbIndex} {addr : Addr} {s : State}
    {k : Byte → State → Out} (hk : ∀ v t, Unlimited (k v t)) : Unlimited (pagedRead nest table sel addr s k) := by
  refine unlimited_withActive fun _ i => ?_
  split
  · exact hk _ _
  · split
    · exact unlimited_callHandler hn hk
    · exact hk _ s

theorem unlimited_readByteBy (addr : Addr) (s : State) : Unlimited (readByteBy nest addr s) :=
  unlimited_commonChecks fun _ => unlimited_pagedRead hn fun _ t => unlimited_finish t _

theorem unlimited_readArgBy (addr : Addr) (s : State) : Unlimited (readArgBy nest addr s) :=
  unlimited_commonChecks fun _ => unlimited_pagedRead hn fun _ t => unlimited_finish t _

theorem unlimited_readOpBy (addr : Addr) (s : State) : Unlimited (readOpBy nest addr s) :=
  unlimited_commonChecks fun _ => unlimited_pagedRead hn fun _ t => unlimited_withActive fun _ _ => unlimited_finish t _

theorem unlimited_writeByteBy (addr : Addr) (data : Byte) (s : State) : Unlimited (writeByteBy nest addr data s) := by
  refine unlimited_commonChecks fun _ => unlimited_withActive fun _ i => ?_
  split
  · exact unlimited_finish _ _
  · split
    · exact unlimited_callHandler hn fun _ t => unlimited_finish t _
    · exact unlimited_finish s _

theorem unlimited_readPortBy (addr : Addr) (s : State) : Unlimited (readPortBy nest addr s) := by
  refine unlimited_commonChecks fun _ => unlimited_withActive fun _ i => ?_
  split
  · exact unlimited_callHandler hn fun _ t => unlimited_finish t _
  · exact unlimited_finish s _

theorem unlimited_writePortBy (addr : Addr) (data : Byte) (s : State) : Unlimited (writePortBy nest addr data s) := by
  refine unlimited_commonChecks fun _ => unlimited_withActive fun _ i => ?_
  split
  · exact unlimited_callHandler hn fun _ t => unlimited_finish t _
  · exact unlimited_finish s _

theorem unlimited_writeRomBy (addr : Addr) (data : Byte) (s : State) : Unlimited (writeRomBy nest addr data s) := by
  refine unlimited_commonChecks fun _ => unlimited_withActive fun _ i => ?_
  split
  · exact unlimited_callHandler hn fun _ t => unlimited_finish t _
  · exact unlimited_finish _ _

theorem unlimited_busCommand (kind : BitVec 3) (addr : Addr) (wdata : Byte) (s : State) :
    Unlimited (busCommand nest kind addr wdata s) := by
  unfold busCommand
  split
  · exact unlimited_readByteBy hn addr s
  · exact unlimited_writeByteBy hn addr wdata s
  · exact unlimited_readOpBy hn addr s
  · exact unlimited_readArgBy hn addr s
  · exact unlimited_readPortBy hn addr s
  · exact unlimited_writePortBy hn addr wdata s
  · exact unlimited_violation s _

theorem unlimited_engineActs (acts : List EngineAct) : ∀ s, Unlimited (engineActs nest acts s) := by
  induction acts with
  | nil => exact unlimited_next
  | cons act rest ih =>
    intro s
    cases act with
    | setContext c => exact ih _
    | access kind addr wdata =>
      exact ((unlimited_busCommand hn kind addr wdata s).andThen fun t => unlimited_next _).andThen ih

theorem unlimited_invoke {call : EngineCall} {s : State} {k : Cycles → State → Out} (hk : ∀ c t, Unlimited (k c t)) :
    Unlimited (invoke nest call s k) :=
  unlimited_withActive fun _ _ => unlimited_withContext fun _ => (unlimited_engineActs hn _ _).andThen (hk _)

theorem unlimited_invokeVoid {call : EngineCall} {s : State} {k : State → Out} (hk : ∀ t, Unlimited (k t)) :
    Unlimited (invokeVoid nest call s k) :=
  unlimited_invoke hn fun _ => hk

theorem unlimited_applyIrq {line : BitVec 8} {status : IrqStatus} {s : State} {k : State → Out}
    (hk : ∀ t, Unlimited (k t)) : Unlimited (applyIrq nest line status s k) := by
  cases status with
  | none => exact unlimited_invokeVoid hn hk
  | ack => exact unlimited_invokeVoid hn hk
  | auto =>
    simp only [applyIrq]
    split
    · exact unlimited_invokeVoid hn fun _ => unlimited_invokeVoid hn hk
    · exact unlimited_invokeVoid hn fun _ => unlimited_invokeVoid hn fun _ => unlimited_invokeVoid hn fun _ =>
        unlimited_invokeVoid hn hk
  | hold => exact unlimited_invokeVoid hn fun _ => unlimited_invokeVoid hn hk

theorem unlimited_bracketed (target : Slot) (line : BitVec 8) (status : IrqStatus) (s : State) :
    Unlimited (bracketed nest target line status s) := by
  unfold bracketed
  split
  · exact unlimited_doOpen fun _ => unlimited_applyIrq hn fun _ => unlimited_doClose fun t => unlimited_finish t _
  · exact unlimited_doClose fun _ => unlimited_doOpen fun _ => unlimited_applyIrq hn fun _ => unlimited_doClose fun _ =>
      unlimited_doOpen fun t => unlimited_finish t _

theorem unlimited_setIrqxBy (b line : BitVec 8) (status : IrqStatus) (s : State) :
    Unlimited (setIrqxBy nest b line status s) := by
  refine unlimited_checkInit (unlimited_checkLive fun target _ => ?_)
  split
  · exact unlimited_applyIrq hn fun t => unlimited_finish t _
  · exact unlimited_bracketed hn target line status s

theorem unlimited_createBy (b variant : BitVec 8) (s : State) : Unlimited (createBy nest b variant s) := by
  unfold createBy
  split
  · exact unlimited_violation s _
  · split
    · exact unlimited_violation s _
    · split
      · exact unlimited_violation s _
      · exact unlimited_doOpen fun _ => unlimited_invokeVoid hn fun t => unlimited_withInstance fun _ =>
          unlimited_withContext fun _ => unlimited_finish _ _

theorem unlimited_scanRecord {write : Bool} {a : Slot} {i : Instance} {s : State} {k : State → Out}
    (hk : ∀ t, Unlimited (k t)) : Unlimited (scanRecord nest write a i s k) := by
  refine (unlimited_snapCommands hn _ _).andThen fun t => ?_
  split
  · exact unlimited_withInstance fun _ => hk _
  · exact hk t

theorem unlimited_scanSlots (write : Bool) (slots : List Slot) : ∀ s, Unlimited (scanSlots nest write slots s) := by
  induction slots with
  | nil => exact fun s => unlimited_finish s _
  | cons a rest ih =>
    intro s
    unfold scanSlots
    split
    · exact ih s
    · exact unlimited_scanRecord hn ih

theorem unlimited_scanBy (driver write : Bool) (s : State) : Unlimited (scanBy nest driver write s) := by
  refine unlimited_checkInit ?_
  split
  · exact unlimited_scanSlots hn write _ s
  · exact unlimited_finish s _

/-- No command sets a limit of its own; of a nested RUN that is the value of NESTED_RUN_ALLOWED (R201, U6). -/
theorem unlimited_nestedCommand (i : Instr) (s : State) : Unlimited (nestedCommand nest i s) := by
  cases i with
  | create b v => exact unlimited_createBy hn b v s
  | destroy => exact unlimited_execDestroy s
  | openSlot b => exact unlimited_execOpen b s
  | close => exact unlimited_commonChecks fun _ => unlimited_doClose fun t => unlimited_finish t _
  | getActive => exact unlimited_checkInit (unlimited_finish s _)
  | getPc => exact unlimited_commonChecks fun _ => unlimited_withContext fun _ => unlimited_finish _ _
  | getPpc => exact unlimited_commonChecks fun _ => unlimited_withContext fun _ => unlimited_finish _ _
  | cpuReset => exact unlimited_commonChecks fun _ => unlimited_invokeVoid hn fun t => unlimited_finish t _
  | mapRange buffer start stop kinds => exact unlimited_commonChecks fun _ => unlimited_configure s _
  | setMask mask => exact unlimited_execSetMask mask s
  | setCb sel handler => exact unlimited_execSetCb sel handler s
  | setRemap index value => exact unlimited_commonChecks fun _ => unlimited_configure s _
  | readByte addr => exact unlimited_readByteBy hn addr s
  | writeByte addr data => exact unlimited_writeByteBy hn addr data s
  | readOp addr => exact unlimited_readOpBy hn addr s
  | readArg addr => exact unlimited_readArgBy hn addr s
  | readPort addr => exact unlimited_readPortBy hn addr s
  | writePort addr data => exact unlimited_writePortBy hn addr data s
  | writeRom addr data => exact unlimited_writeRomBy hn addr data s
  | setIrq line status => exact unlimited_commonChecks fun _ => unlimited_applyIrq hn fun t => unlimited_finish t _
  | setIrqx b line status => exact unlimited_setIrqxBy hn b line status s
  | newFrame => exact unlimited_checkInit (unlimited_finish _ _)
  | run n => exact unlimited_commonChecks fun _ => unlimited_invoke hn fun _ _ => unlimited_finish _ _
  | idle n => exact unlimited_commonChecks fun _ => unlimited_finish _ _
  | getCur => exact unlimited_checkInit (unlimited_finish s _)
  | getSaved b => exact unlimited_checkInit (unlimited_checkLive fun _ _ => unlimited_finish s _)
  | scan driver write => exact unlimited_scanBy hn driver write s

theorem unlimited_nestedWord (cw : CommandWord) (s : State) : Unlimited (nestedWord nest cw s) := by
  refine Unlimited.andThen ?_ fun t => unlimited_next _
  split
  · exact unlimited_nestedCommand hn _ s
  · exact unlimited_violation s _

end

/-! The bound on nesting. -/

/-- `nest` where fewer than `n` scripts are queued; elsewhere a nested command is answered at once. -/
def Nest.below (nest : Nest) (n : Nat) : Nest := fun cw s => if s.scripts < n then nest cw s else answer s

theorem Nest.agreeBelow_below {nest : Nest} (hn : Chained nest) (n : Nat) : AgreeBelow n nest (nest.below n) :=
  ⟨hn, fun _ _ hs => (if_pos hs).symm⟩

theorem Nest.unlimited_below {nest : Nest} {n : Nat} (hn : ∀ cw s, s.scripts < n → Unlimited (nest cw s))
    (cw : CommandWord) (s : State) : Unlimited (nest.below n cw s) := by
  unfold Nest.below
  split
  · next hs => exact hn cw s hs
  · exact unlimited_next _

/-- A word meets no limit where `n` scripts are queued when its nested commands meet none where fewer are: by
`nestedWord_agree` no nested command is issued anywhere else. -/
theorem unlimited_nestedWord_of_below {nest : Nest} (hc : Chained nest) {n : Nat}
    (hn : ∀ cw s, s.scripts < n → Unlimited (nest cw s)) (cw : CommandWord) {s : State} (hs : s.scripts ≤ n) :
    Unlimited (nestedWord nest cw s) := by
  rw [nestedWord_agree (Nest.agreeBelow_below hc n) cw s hs]
  exact unlimited_nestedWord (Nest.unlimited_below hn) cw s

/-- The bound is not used up where it exceeds the number of queued scripts. -/
theorem unlimited_serveNested (d : Nat) : ∀ cw s, s.scripts < d → Unlimited (serveNested d cw s) := by
  induction d with
  | zero => exact fun _ _ h => absurd h (Nat.not_lt_zero _)
  | succ d ih => exact fun cw _ hs => unlimited_nestedWord_of_below (serveNested_chain d) ih cw (Nat.le_of_lt_succ hs)

theorem unlimited_runWord (cw : CommandWord) (s : State) : Unlimited (runWord cw s) := by
  rw [runWord_eq_nestedWord]
  exact unlimited_nestedWord_of_below (serveNested_chain _) (unlimited_serveNested _) cw (Nat.le_refl _)

/-- Settles O17: by induction on the bound no word on port CMD meets a limit, and the HOST's other inputs have none. -/
theorem neverRefusesNorExhaustsNesting : Obligations.NeverRefusesNorExhaustsNesting := by
  intro s
  change Unlimited (step s)
  unfold step
  split
  · exact unlimited_next s
  · exact unlimited_runWord _ _
  · exact unlimited_next _
  · exact unlimited_next _

end Sys2Proof.Machine
end

section
/-! The variant table (R120), the reads of the program counters (R131, R132) and the invocation of a handler (R135,
R151). -/

namespace Sys2Proof.Machine

/-! The rows of VARIANTS (R120). -/

/-- An operand that names a variant is that variant's id. -/
theorem variantOf_eq_some {b : BitVec 8} {v : Variant} : variantOf b = some v ↔ v.val = b.toNat := by
  unfold variantOf
  split
  · simp [Fin.ext_iff, eq_comm]
  · next h => exact ⟨nofun, fun hv => absurd (hv ▸ v.isLt) h⟩

theorem variantRow_execute : ∀ v : Variant, (variantRow v).execute = if v.val = 2 then .cmos else .baseline := by
  decide

theorem variantRow_resetInit : ∀ v : Variant,
    (variantRow v).resetInit = if v.val = 1 then .sub else if v.val = 2 then .cmos else .baseline := by
  decide

theorem variantRow_setInterruptLine : ∀ v : Variant,
    (variantRow v).setInterruptLine = if v.val = 2 then .cmos else .baseline := by
  decide

theorem isScrambled_iff : ∀ v : Variant, isScrambled v = true ↔ v.val = 3 := by
  decide

/-- Settles O26: the ids are the positions in the table, and each row is what the table says at its position. -/
theorem variantBundles : Obligations.VariantBundles := by
  intro b
  refine ⟨fun hb => ⟨⟨b.toNat, hb⟩, variantOf_eq_some.2 rfl⟩, variantOf_eq_none.2, fun v hv => ?_⟩
  have hv : v.val = b.toNat := variantOf_eq_some.1 hv
  have hid (n : BitVec 8) : b = n ↔ v.val = n.toNat := by rw [hv, BitVec.toNat_inj]
  simp only [hid]
  refine ⟨hv, fun _ => variantRow_execute v, ?_, fun _ _ => variantRow_setInterruptLine v, isScrambled_iff v⟩
  rintro f (rfl | rfl)
  · exact variantRow_resetInit v
  · exact variantRow_resetInit v

/-! GETPC and GETPPC (R131, R132). -/

/-- Settles O27: the common checks, then the engine's value of the working context. -/
theorem programCounterReads : Obligations.ProgramCounterReads :=
  ⟨commonViolations_of_needsActive rfl rfl, commonViolations_of_needsActive rfl rfl, fun _ _ _ _ hs =>
    ⟨(commonChecks_of hs.count hs.active _).trans (withContext_of hs.wctx _),
      (commonChecks_of hs.count hs.active _).trans (withContext_of hs.wctx _)⟩⟩

/-! The invocation of a handler (R135, R151, R239). -/

/-- Taking the handler's script touches no state of the block. -/
theorem nextHandler_sameBlock (s : State) (id : HandlerId) (sel : CbIndex) (a : Addr) :
    s.SameBlock (nextHandler s id sel a).2 := by
  constructor <;> simp

/-- The rest of a command that waits for a handler is a call with the command's own serving of nested commands. -/
theorem afterHandler_eq_callHandler (s : State) (id : HandlerId) (sel : CbIndex) (a : Addr) (d : Option Byte)
    (k : Byte → State → Out) : afterHandler s id sel a d k = callHandler s.nest id sel a d s k := rfl

/-- A call whose handler's acts end in `t`: the check of ACTIVE at the answer is what is left (R239). -/
theorem callHandler_of_acts {nest : Nest} {s t : State} {id : HandlerId} {sel : CbIndex} {a : Addr} {d : Option Byte}
    (ht : handlerActs nest (nextHandler s id sel a).1.acts ((nextHandler s id sel a).2.log (.cb id sel a d)) = .next t)
    (k : Byte → State → Out) :
    callHandler nest id sel a d s k =
      if t.active = s.active then k (nextHandler s id sel a).1.answer t else .next (t.violate .activeChanged) := by
  rw [callHandler, ht]
  rfl

/-- Settles O41: a call with nested commands served as at top level, in the two outcomes of the check of ACTIVE. -/
theorem handlerInvocation : Obligations.HandlerInvocation := by
  intro s id sel a d k
  rw [afterHandler_eq_callHandler]
  refine ⟨⟨nextHandler_sameBlock s id sel a, nextHandler_mem s id sel a⟩, fun cw rest t ht => ?_, fun t ht => ?_,
    callHandler_of_writes s.nest id sel a d s k⟩
  · rw [handlerActs, nest_eq_runWord ht]
  · rw [callHandler_of_acts ht]
    exact ⟨fun h => if_pos h, fun h => if_neg h⟩

end Sys2Proof.Machine
end

section
/-! Engine behaviours with nothing nested (R121 to R130), and CPURESET (R133). -/

namespace Sys2Proof.Machine

/-! An access that calls no handler but quiet ones (R44 to R46, R148, R149). -/

/-- An access that passes its checks in `s`, with nothing nested, leaves the block but for RES; the port transfers it
adds are no engine calls. (`QuietRun`, which `Serving` keeps whatever is logged, says nothing of the ports.) -/
structure QuietAccess (s t : State) (new : List PortEvent) : Prop where
  quiet : t.quiet = true
  block : s.SameBlock t
  ports : t.env.ports = s.env.ports ++ new
  calls : ectlCalls new = []

/-- The outcome is the next state of such an access. -/
def QuietlyAccessed (s : State) (o : Out) : Prop := ∃ t new, o = .next t ∧ QuietAccess s t new

theorem QuietAccess.accessed {s t : State} {new : List PortEvent} (h : QuietAccess s t new) (r : Result) :
    QuietlyAccessed s (.next (t.setRes r)) := by
  obtain ⟨hq, ⟨hcount, hactive, hslots, hcur, hwctx, hviol⟩, hports, hcalls⟩ := h
  exact ⟨_, new, rfl, hq, ⟨hcount, hactive, hslots, hcur, hwctx, hviol⟩, hports, hcalls⟩

/-- What follows the access in its command only sets RES. -/
theorem QuietAccess.followed {s t : State} {new : List PortEvent} (h : QuietAccess s t new) {k : Byte → State → Out}
    (hk : SetsResult s k) (v : Byte) : QuietlyAccessed s (k v t) := by
  obtain ⟨r, hr⟩ := hk v t h.block.active h.block.slots
  exact hr ▸ h.accessed r

section
variable {s : State} (hq : s.quiet = true)
include hq

theorem quietAccess_refl : QuietAccess s s [] :=
  ⟨hq, ⟨rfl, rfl, rfl, rfl, rfl, rfl⟩, (List.append_nil _).symm, rfl⟩

theorem quietAccess_hread (h : HostAddr) : QuietAccess s (s.hread h) [.hread h (s.hostByte h)] :=
  ⟨hq, ⟨rfl, rfl, rfl, rfl, rfl, rfl⟩, rfl, rfl⟩

theorem quietAccess_hwrite (h : HostAddr) (v : Byte) : QuietAccess s (s.hwrite h v) [.hwrite h v] :=
  ⟨hq, ⟨rfl, rfl, rfl, rfl, rfl, rfl⟩, rfl, rfl⟩

theorem quietAccess_handler (id : HandlerId) (sel : CbIndex) (a : Addr) (d : Option Byte) (acts : List HandlerAct) :
    QuietAccess s (((nextHandler s id sel a).2.log (.cb id sel a d)).pokeAll acts) [.cb id sel a d] := by
  obtain ⟨hcount, -, hslots, hcur, hwctx, hviol⟩ :=
    State.pokeAll_sameBlock acts ((nextHandler s id sel a).2.log (.cb id sel a d))
  refine ⟨(State.pokeAll_quiet acts _).trans (nextHandler_quiet hq id sel a), ?_, by simp, rfl⟩
  exact ⟨by simp [hcount], by simp, by simp [hslots], by simp [hcur], by simp [hwctx], by simp [hviol]⟩

theorem callHandler_accessed (nest : Nest) {id : HandlerId} {sel : CbIndex} {a : Addr} {d : Option Byte}
    {k : Byte → State → Out} (hk : SetsResult s k) : QuietlyAccessed s (callHandler nest id sel a d s k) := by
  rw [callHandler_of_writes nest id sel a d s k (nextHandler_isWrite hq id sel a)]
  exact (quietAccess_handler hq id sel a d _).followed hk _

variable {a : Slot} {i : Instance} (hs : s.Opened a i)
include hs

theorem pagedRead_accessed (nest : Nest) {table : Instance → PageTable} {sel : CbIndex} {addr : Addr}
    {k : Byte → State → Out} (hk : SetsResult s k) :
    QuietlyAccessed s (commonChecks s fun _ => pagedRead nest table sel addr s k) := by
  rw [commonChecks_of hs.count hs.active]
  cases hm : (translateAddr (table i) i.mask addr).2 with
  | some h =>
    rw [pagedRead_of_mapped hs hm]
    exact (quietAccess_hread hq h).followed hk _
  | none =>
    cases hcb : i.cb[sel] with
    | none =>
      rw [pagedRead_of_unmapped hs hm hcb]
      exact (quietAccess_refl hq).followed hk _
    | some id =>
      rw [pagedRead_of_handler hs hm hcb]
      exact callHandler_accessed hq nest hk

theorem writeByteBy_accessed (nest : Nest) (addr : Addr) (data : Byte) :
    QuietlyAccessed s (writeByteBy nest addr data s) := by
  rw [writeByteBy, commonChecks_of hs.count hs.active, withActive_of hs.active hs.slot]
  split
  · next h _ => exact (quietAccess_hwrite hq h data).accessed _
  · split
    · exact callHandler_accessed hq nest (setsResult_finish s fun _ => 0#32)
    · exact (quietAccess_refl hq).accessed _

theorem readPortBy_accessed (nest : Nest) (addr : Addr) : QuietlyAccessed s (readPortBy nest addr s) := by
  rw [readPortBy, commonChecks_of hs.count hs.active, withActive_of hs.active hs.slot]
  split
  · exact callHandler_accessed hq nest (setsResult_finish s byteResult)
  · exact (quietAccess_refl hq).accessed _

theorem writePortBy_accessed (nest : Nest) (addr : Addr) (data : Byte) :
    QuietlyAccessed s (writePortBy nest addr data s) := by
  rw [writePortBy, commonChecks_of hs.count hs.active, withActive_of hs.active hs.slot]
  split
  · exact callHandler_accessed hq nest (setsResult_finish s fun _ => 0#32)
  · exact (quietAccess_refl hq).accessed _

theorem busCommand_accessed (nest : Nest) {kind : BitVec 3} (hk : kind.toNat < 6) (addr : Addr) (wdata : Byte) :
    QuietlyAccessed s (busCommand nest kind addr wdata s) := by
  unfold busCommand
  split
  · exact pagedRead_accessed hq hs nest (table := Instance.rd) (setsResult_finish s byteResult)
  · exact writeByteBy_accessed hq hs nest addr wdata
  · exact pagedRead_accessed hq hs nest (table := Instance.fe) (setsResult_remap hs)
  · exact pagedRead_accessed hq hs nest (table := Instance.fe) (setsResult_finish s byteResult)
  · exact readPortBy_accessed hq hs nest addr
  · exact writePortBy_accessed hq hs nest addr wdata
  · exact absurd hk (by grind)

/-- The access is answered on port EBUS (R85). -/
theorem busAccess_accessed (nest : Nest) {kind : BitVec 3} (hk : kind.toNat < 6) (addr : Addr) (wdata : Byte) :
    QuietlyAccessed s (busAccess nest kind addr wdata s) := by
  obtain ⟨t, new, ht, hquiet, ⟨hcount, hactive, hslots, hcur, hwctx, hviol⟩, hports, hcalls⟩ :=
    busCommand_accessed hq hs nest hk addr wdata
  refine ⟨t.log (.ebus kind addr wdata (busData t.res)), new ++ [.ebus kind addr wdata (busData t.res)], ?_, hquiet,
    ⟨hcount, hactive, hslots, hcur, hwctx, hviol⟩, ?_, ?_⟩
  · rw [busAccess, ht]; rfl
  · simp [hports]
  · rw [ectlCalls_append, hcalls]; rfl

end

/-! Engine behaviours. -/

/-- What an engine behaviour with the acts `acts` leaves when it runs in `s` with nothing nested: the block but for
WCTX, which is what it wrote last, and RES. Without bus accesses it leaves host memory and the ports too. -/
structure QuietBehaviour (acts : List EngineAct) (s t : State) (new : List PortEvent) : Prop where
  quiet : t.quiet = true
  block : s.SameButContext t
  cur : t.cur = s.cur
  wctx : ∀ c, s.wctx = .live c → t.wctx = .live (contextAfter acts c)
  ports : t.env.ports = s.env.ports ++ new
  calls : ectlCalls new = []
  idle : noAccess acts = true → t.env.mem = s.env.mem ∧ new = []

theorem QuietBehaviour.setContext {acts : List EngineAct} {s t : State} {c : Ctx} {new : List PortEvent}
    (h : QuietBehaviour acts (s.setWctx (.live c)) t new) : QuietBehaviour (.setContext c :: acts) s t new where
  quiet := h.quiet
  block := ⟨h.block.count, h.block.active, h.block.slots, h.block.viol⟩
  cur := h.cur
  wctx _ _ := h.wctx c rfl
  ports := h.ports
  calls := h.calls
  idle hno := h.idle (by simpa [noAccess] using hno)

theorem QuietBehaviour.access {acts : List EngineAct} {s t u : State} {xs ys : List PortEvent} {kind : BitVec 3}
    {addr : Addr} {wdata : Byte} (g : QuietAccess s t xs) (h : QuietBehaviour acts t u ys) :
    QuietBehaviour (.access kind addr wdata :: acts) s u (xs ++ ys) where
  quiet := h.quiet
  block := ⟨h.block.count.trans g.block.count, h.block.active.trans g.block.active, h.block.slots.trans g.block.slots,
    h.block.viol.trans g.block.viol⟩
  cur := h.cur.trans g.block.cur
  wctx c hc := h.wctx c (g.block.wctx.trans hc)
  ports := by rw [h.ports, g.ports, List.append_assoc]
  calls := by rw [ectlCalls_append, g.calls, h.calls, List.append_nil]
  idle hno := by simp [noAccess] at hno

theorem engineActs_of_quiet (nest : Nest) {a : Slot} {i : Instance} (acts : List EngineAct) :
    ∀ s : State, s.quiet = true → s.Opened a i → acts.all EngineAct.isLegal = true →
      ∃ t new, engineActs nest acts s = .next t ∧ QuietBehaviour acts s t new := by
  induction acts with
  | nil =>
    exact fun s hq _ _ => ⟨s, [], rfl, hq, ⟨rfl, rfl, rfl, rfl⟩, rfl, fun _ hc => hc, (List.append_nil _).symm, rfl,
      fun _ => ⟨rfl, rfl⟩⟩
  | cons act rest ih =>
    intro s hq hs hl
    obtain ⟨hact, hrest⟩ : act.isLegal = true ∧ rest.all EngineAct.isLegal = true := by simpa using hl
    cases act with
    | setContext c =>
      obtain ⟨t, new, ht, hrun⟩ := ih (s.setWctx (.live c)) hq (hs.of_slots rfl rfl rfl) hrest
      exact ⟨t, new, ht, hrun.setContext⟩
    | access kind addr wdata =>
      obtain ⟨t, xs, ht, hacc⟩ := busAccess_accessed hq hs nest (of_decide_eq_true hact) addr wdata
      obtain ⟨u, ys, hu, hrun⟩ :=
        ih t hacc.quiet (hs.of_slots hacc.block.count hacc.block.active hacc.block.slots) hrest
      exact ⟨u, xs ++ ys, by rw [engineActs, ht, andThen_next, hu], hrun.access hacc⟩

theorem andThen_withInstance (s : State) (a : Slot) (k : Instance → Out) (l : State → Out) :
    andThen (withInstance s a k) l = withInstance s a fun i => andThen (k i) l := by
  unfold withInstance
  split <;> rfl

theorem andThen_withActive (s : State) (k : Slot → Instance → Out) (l : State → Out) :
    andThen (withActive s k) l = withActive s fun a i => andThen (k a i) l := by
  unfold withActive
  split
  · rfl
  · exact andThen_withInstance s _ _ l

theorem andThen_withContext (s : State) (k : Ctx → Out) (l : State → Out) :
    andThen (withContext s k) l = withContext s fun c => andThen (k c) l := by
  unfold withContext
  split <;> rfl

/-- The invocation of a behaviour is the behaviour, and then the rest of the command. -/
theorem invokeVoid_eq_andThen (nest : Nest) (call : EngineCall) (s : State) (k : State → Out) :
    invokeVoid nest call s k = andThen (invokeAll nest [call] s) k := by
  simp only [invokeAll, invokeVoid, invoke, andThen_withActive, andThen_withContext, andThen_assoc, andThen_next]

/-- `t` is what the behaviour behind `call` of the active instance leaves when it is invoked in `s` with nothing nested:
the script says what WCTX is, and the call is the one transfer on port ECTL. -/
structure QuietCall (call : EngineCall) (a : Slot) (i : Instance) (c : Ctx) (s t : State) (new : List PortEvent) :
    Prop where
  quiet : t.quiet = true
  block : s.SameButContext t
  cur : t.cur = s.cur
  wctx : t.wctx = .live (contextAfter (nextEngine s (routineOf i.variant call) call c).1.acts c)
  ports : t.env.ports = s.env.ports ++ new
  calls : ectlCalls new = [(a, call)]
  idle : noAccess (nextEngine s (routineOf i.variant call) call c).1.acts = true →
    t.env.mem = s.env.mem ∧ new = [.ectl a (routineOf i.variant call) call]

theorem invoke_of_quiet (nest : Nest) (call : EngineCall) {s : State} {a : Slot} {i : Instance} {c : Ctx}
    (hs : s.Ready a i c) (hq : s.quiet = true) :
    ∃ t new, QuietCall call a i c s t new ∧ ∀ k : Cycles → State → Out,
      invoke nest call s k = k (nextEngine s (routineOf i.variant call) call c).1.consumed t := by
  obtain ⟨t, new, ht, hrun⟩ := engineActs_of_quiet nest (a := a) (i := i)
    (nextEngine s (routineOf i.variant call) call c).1.acts
    ((nextEngine s (routineOf i.variant call) call c).2.log (.ectl a (routineOf i.variant call) call))
    (nextEngine_quiet hq _ call c) (hs.of_slots (by simp) (by simp) (by simp)) (nextEngine_isLegal hq _ call c)
  refine ⟨t, .ectl a (routineOf i.variant call) call :: new, ⟨hrun.quiet, ?_, by simpa using hrun.cur,
    hrun.wctx c (by simpa using hs.wctx), by simpa using hrun.ports, ?_, fun hno => ?_⟩, fun k => ?_⟩
  · exact ⟨by simpa using hrun.block.count, by simpa using hrun.block.active, by simpa using hrun.block.slots,
      by simpa using hrun.block.viol⟩
  · simp [ectlCalls, hrun.calls]
  · obtain ⟨hmem, rfl⟩ := hrun.idle hno
    exact ⟨by simpa using hmem, rfl⟩
  · rw [invoke_of hs.active hs.slot hs.wctx, ht, andThen_next]

/-- Settles O28: the common checks, then the behaviour, of which `QuietCall` says what it leaves with nothing nested. -/
theorem cpuResetEffect : Obligations.CpuResetEffect := by
  refine ⟨commonViolations_of_needsActive rfl rfl, fun s a i c hs => ?_⟩
  have hexec : exec .cpuReset s = invokeVoid s.nest .reset s fun t => finish t 0#32 :=
    commonChecks_of hs.count hs.active _
  refine ⟨hexec.trans (invokeVoid_eq_andThen _ _ s _), fun hq => ?_⟩
  obtain ⟨t, new, hcall, ht⟩ := invoke_of_quiet s.nest .reset hs hq
  exact ⟨t.setRes 0#32, new, hexec.trans (ht _),
    ⟨hcall.block.count, hcall.block.active, hcall.block.slots, hcall.block.viol⟩, hcall.cur, rfl, hcall.wctx, hcall.ports,
    hcall.calls, hcall.idle⟩

end Sys2Proof.Machine
end

section
/-! The effect of the configuration commands MAPRANGE, SETMASK, SETCB and SETREMAP (R140 to R143). -/

namespace Sys2Proof.Machine

/-- A configuration command writes the active slot and RES, nothing else. -/
theorem State.configured_frame (s : State) (a : Slot) (j : Instance) :
    (∀ b, b ≠ a → (s.configured a j).slot b = s.slot b) ∧
      s.configured a j = { s with slots := (s.configured a j).slots, res := 0#32 } :=
  ⟨fun _ hb => s.setSlot_slot_ne (some j) hb.symm, rfl⟩

theorem State.configured_slot_self (s : State) (a : Slot) (j : Instance) : (s.configured a j).slot a = some j :=
  s.setSlot_slot_self a (some j)

/-- A table after MAPRANGE is as R140 says whether or not `kinds` selects it. -/
theorem tableMapped_ite_mapPages (selected : Bool) (buffer : Option HostAddr) (start stop : Addr) (t : PageTable) :
    TableMapped selected buffer start stop t (if selected then mapPages t buffer start stop else t) := by
  intro p
  cases selected with
  | false => simp
  | true =>
    simp only [if_true, true_and, mapPages_entry, pageOf_toNat]
    split
    · cases buffer with
      | none => rfl
      | some base => exact ⟨_, rfl, hostAddr_toNat base _⟩
    · rfl

/-- Settles O30: each table is the one `tableMapped_ite_mapPages` speaks of. -/
theorem mapRangeEffect : Obligations.MapRangeEffect := by
  refine ⟨fun _ _ _ _ => commonViolations_of_needsActive rfl rfl, fun s a i buffer start stop kinds hs => ?_⟩
  exact ⟨_, i.mapRange buffer start stop kinds, exec_mapRange_of_opened hs buffer start stop kinds,
    s.configured_slot_self a _, tableMapped_ite_mapPages _ _ _ _ _, tableMapped_ite_mapPages _ _ _ _ _,
    tableMapped_ite_mapPages _ _ _ _ _, rfl, s.configured_frame a _⟩

theorem exec_setMask_of_malformed {s : State} {a : Slot} {i : Instance} (hs : s.Opened a i) {mask : Addr}
    (hm : ¬ maskOk mask = true) : exec (.setMask mask) s = .next (s.violate .badMask) :=
  (commonChecks_of hs.count hs.active _).trans (if_neg hm)

/-- Settles O31: the common checks, then the check of the mask's low byte (`maskOk_iff`). -/
theorem setMaskEffect : Obligations.SetMaskEffect := by
  refine ⟨fun _ => commonViolations_of_needsActive rfl rfl, fun s a i mask hs => ⟨fun hm => ?_, fun hm => ?_⟩⟩
  · exact exec_setMask_of_malformed hs (mt (maskOk_iff mask).1 hm)
  · exact ⟨_, exec_setMask_of_opened hs ((maskOk_iff mask).2 hm), s.configured_slot_self a _, s.configured_frame a _⟩

/-- A selector below 6 names the callback slot of its number (R76). -/
theorem selectorOf_of_lt {sel : BitVec 3} (h : sel.toNat < 6) : selectorOf sel = some ⟨sel.toNat, h⟩ :=
  dif_pos h

/-- SETCB with selector 6 or 7 is BAD_COMMAND before every other check (R76, R82, R241). -/
theorem exec_setCb_of_badSelector {sel : BitVec 3} (h : 6 ≤ sel.toNat) (handler : Option HandlerId) (s : State) :
    exec (.setCb sel handler) s = .next (s.violate .badCommand) := by
  have hnone : selectorOf sel = none := dif_neg (Nat.not_lt.2 h)
  show execSetCb sel handler s = _
  rw [execSetCb, hnone]
  rfl

/-- Settles O32: the selector decides between BAD_COMMAND and one replaced entry of CB. -/
theorem setCbEffect : Obligations.SetCbEffect := by
  refine ⟨fun sel _ hsel => commonViolations_of_needsActive (decide_eq_true hsel) rfl,
    fun s sel handler hsel => exec_setCb_of_badSelector hsel handler s, fun s a i sel handler hs hsel => ?_⟩
  refine ⟨_, _, exec_setCb_of_opened hs (selectorOf_of_lt hsel) handler, s.configured_slot_self a _, fun k => ?_, rfl,
    s.configured_frame a _⟩
  simp [Vector.getElem_set, eq_comm]

/-- Settles O33: `RemapTable.put` replaces the one entry. -/
theorem setRemapEffect : Obligations.SetRemapEffect := by
  refine ⟨fun _ _ => commonViolations_of_needsActive rfl rfl, fun s a i index value hs => ?_⟩
  refine ⟨_, _, exec_setRemap_of_opened hs index value, s.configured_slot_self a _, fun x => ?_, rfl,
    s.configured_frame a _⟩
  simp [eq_comm]

end Sys2Proof.Machine
end

section
/-! The effect of the access commands READBYTE to WRITEROM on each of their paths (R144 to R150). -/

namespace Sys2Proof.Machine

/-- A command on the active instance, once its checks pass. -/
theorem checked_withActive_of_opened {s : State} {a : Slot} {i : Instance} (hs : s.Opened a i)
    (k : Slot → Instance → Out) : (commonChecks s fun _ => withActive s k) = k a i :=
  (commonChecks_of hs.count hs.active _).trans (withActive_of hs.active hs.slot k)

/-! The read commands (R144, R146, R147). -/

section
variable {s : State} {a : Slot} {i : Instance} (hs : s.Opened a i)
include hs

/-- A read command on an unmapped page without a handler goes on with the byte 0 (R46). -/
theorem readCommand_of_unmapped {table : Instance → PageTable} {sel : CbIndex} {addr : Addr} {k : Byte → State → Out}
    (hm : (translateAddr (table i) i.mask addr).2 = none) (hcb : i.cb[sel] = none) :
    (commonChecks s fun _ => pagedRead s.nest table sel addr s k) = k 0#8 s :=
  (commonChecks_of hs.count hs.active _).trans (pagedRead_of_unmapped hs hm hcb)

/-- A read command on an unmapped page with a handler waits for it; the handler sees the masked address (R46). -/
theorem readCommand_of_handler {table : Instance → PageTable} {sel : CbIndex} {addr : Addr} {k : Byte → State → Out}
    {id : HandlerId} (hm : (translateAddr (table i) i.mask addr).2 = none) (hcb : i.cb[sel] = some id) :
    (commonChecks s fun _ => pagedRead s.nest table sel addr s k) =
      afterHandler s id sel (addr &&& i.mask) none k :=
  (commonChecks_of hs.count hs.active _).trans (pagedRead_of_handler hs hm hcb)

end

/-- Settles O34: a paged read through RD. -/
theorem readByteEffect : Obligations.ReadByteEffect :=
  ⟨fun _ => commonViolations_of_needsActive rfl rfl, fun _ _ _ _ hs =>
    ⟨fun _ hm => exec_readByte_of_mapped hs hm, fun hm hcb => readCommand_of_unmapped hs hm hcb,
      fun _ hm hcb => readCommand_of_handler hs hm hcb⟩⟩

/-- Settles O36: a paged read through FE; the instance whose REMAP is read is the active one after the access. -/
theorem readOpEffect : Obligations.ReadOpEffect := by
  refine ⟨fun _ => commonViolations_of_needsActive rfl rfl, fun s a i addr hs =>
    ⟨fun h hm => exec_readOp_of_mapped hs hm, fun hm hcb => ?_, fun id hm hcb => readCommand_of_handler hs hm hcb⟩⟩
  exact (readCommand_of_unmapped hs hm hcb).trans (withActive_of hs.active hs.slot _)

/-- Settles O37: a paged read through FE with the byte as it is. -/
theorem readArgEffect : Obligations.ReadArgEffect :=
  ⟨fun _ => commonViolations_of_needsActive rfl rfl, fun _ _ _ _ hs =>
    ⟨fun _ hm => exec_readArg_of_mapped hs hm, fun hm hcb => readCommand_of_unmapped hs hm hcb,
      fun _ hm hcb => readCommand_of_handler hs hm hcb⟩⟩

/-! WRITEBYTE (R145). -/

/-- Settles O35: the mapped write is `hwrite`, whose laws say which byte changes. -/
theorem writeByteEffect : Obligations.WriteByteEffect := by
  refine ⟨fun _ _ => commonViolations_of_needsActive rfl rfl, fun s a i addr data hs =>
    ⟨fun h hm => ?_, exec_writeByte_of_unmapped hs, fun id hm hcb => exec_writeByte_of_handler hs hm hcb⟩⟩
  exact ⟨_, exec_writeByte_of_mapped hs hm, s.pokeHost_hostByte_self h data,
    fun g hg => s.pokeHost_hostByte_ne h g data hg, rfl⟩

/-! The port commands (R148, R149). -/

section
variable {s : State} {a : Slot} {i : Instance} (hs : s.Opened a i)
include hs

theorem exec_readPort_of_absent (hcb : i.cb[cbPortRead] = none) (addr : Addr) :
    exec (.readPort addr) s = .next (s.setRes 0#32) := by
  refine (checked_withActive_of_opened hs _).trans ?_
  simp only [hcb]
  rfl

theorem exec_writePort_of_absent (hcb : i.cb[cbPortWrite] = none) (addr : Addr) (data : Byte) :
    exec (.writePort addr data) s = .next (s.setRes 0#32) := by
  refine (checked_withActive_of_opened hs _).trans ?_
  simp only [hcb]
  rfl

theorem exec_writePort_of_handler {id : HandlerId} (hcb : i.cb[cbPortWrite] = some id) (addr : Addr) (data : Byte) :
    exec (.writePort addr data) s =
      callHandler s.nest id cbPortWrite addr (some data) s fun _ t => finish t 0#32 := by
  refine (checked_withActive_of_opened hs _).trans ?_
  simp only [hcb]

end

/-- Settles O38: the two values of CB[0]; the address is not masked. -/
theorem readPortEffect : Obligations.ReadPortEffect :=
  ⟨fun _ => commonViolations_of_needsActive rfl rfl, fun _ _ _ addr hs =>
    ⟨fun hcb => exec_readPort_of_absent hs hcb addr, fun _ hcb => exec_readPort_of_handler hs hcb addr⟩⟩

/-- Settles O39: the two values of CB[1]; the address is not masked. -/
theorem writePortEffect : Obligations.WritePortEffect :=
  ⟨fun _ _ => commonViolations_of_needsActive rfl rfl, fun _ _ _ addr data hs =>
    ⟨fun hcb => exec_writePort_of_absent hs hcb addr data, fun _ hcb => exec_writePort_of_handler hs hcb addr data⟩⟩

/-! WRITEROM (R150). -/

/-- `t` is `s` but for host memory and the transfers `new` on the ports. -/
def OnlyWritesHost (s t : State) (new : List PortEvent) : Prop :=
  ∃ m, t = { s with env := { s.env with mem := m, ports := s.env.ports ++ new } }

theorem OnlyWritesHost.trans {s t u : State} {xs ys : List PortEvent} (h : OnlyWritesHost s t xs)
    (g : OnlyWritesHost t u ys) : OnlyWritesHost s u (xs ++ ys) := by
  obtain ⟨m, rfl⟩ := h
  obtain ⟨n, rfl⟩ := g
  exact ⟨n, by simp⟩

theorem OnlyWritesHost.eq_with_mem {s t : State} {new : List PortEvent} (h : OnlyWritesHost s t new) :
    t = { s with env := { s.env with mem := t.env.mem, ports := s.env.ports ++ new } } := by
  obtain ⟨m, rfl⟩ := h
  rfl

/-- Nested commands are served as before, since the queued scripts are the same. -/
theorem OnlyWritesHost.nest_eq {s t : State} {new : List PortEvent} (h : OnlyWritesHost s t new) : t.nest = s.nest := by
  obtain ⟨m, rfl⟩ := h
  rfl

theorem writeMapped_onlyWritesHost (o : Option HostAddr) (data : Byte) (s : State) :
    OnlyWritesHost s (writeMapped o data s) (o.toList.map fun h => .hwrite h data) := by
  cases o with
  | none => exact ⟨s.env.mem, by simp [writeMapped]⟩
  | some h => exact ⟨HostMem.put s.env.mem h.toNat data, rfl⟩

theorem writeMapped_memWf (o : Option HostAddr) (data : Byte) {s : State} (hs : s.MemWf) :
    (writeMapped o data s).MemWf := by
  cases o with
  | none => exact hs
  | some h => exact s.hwrite_memWf h data hs

theorem writeMapped_hostByte (o : Option HostAddr) (data : Byte) {s : State} (hs : s.MemWf) (g : HostAddr) :
    (writeMapped o data s).hostByte g = if some g = o then data else s.hostByte g := by
  cases o with
  | none => rfl
  | some h => simp [writeMapped, State.hwrite_hostByte hs, eq_comm]

theorem writeViews_onlyWritesHost (i : Instance) (addr : Addr) (data : Byte) (s : State) :
    OnlyWritesHost s (writeViews i addr data s)
      (((translateAddr i.rd i.mask addr).2.toList ++ (translateAddr i.wr i.mask addr).2.toList ++
        (translateAddr i.fe i.mask addr).2.toList).map fun h => .hwrite h data) := by
  rw [List.map_append, List.map_append]
  exact ((writeMapped_onlyWritesHost _ data s).trans (writeMapped_onlyWritesHost _ data _)).trans
    (writeMapped_onlyWritesHost _ data _)

/-- A byte of host memory after the writes: `data` where one of the three views leads, as it was elsewhere. -/
theorem writeViews_hostByte (i : Instance) (addr : Addr) (data : Byte) {s : State} (hs : s.MemWf) (g : HostAddr) :
    (writeViews i addr data s).hostByte g =
      if some g = (translateAddr i.rd i.mask addr).2 ∨ some g = (translateAddr i.wr i.mask addr).2 ∨
          some g = (translateAddr i.fe i.mask addr).2 then data
      else s.hostByte g := by
  have hrd := writeMapped_memWf (translateAddr i.rd i.mask addr).2 data hs
  have hwr := writeMapped_memWf (translateAddr i.wr i.mask addr).2 data hrd
  rw [writeViews, writeMapped_hostByte _ data hwr, writeMapped_hostByte _ data hrd, writeMapped_hostByte _ data hs]
  simp only [← ite_or, or_comm, or_assoc]

section
variable {s : State} {a : Slot} {i : Instance} (hs : s.Opened a i)
include hs

theorem exec_writeRom_of_absent (hcb : i.cb[cbByteWrite] = none) (addr : Addr) (data : Byte) :
    exec (.writeRom addr data) s = .next ((writeViews i addr data s).setRes 0#32) := by
  refine (checked_withActive_of_opened hs _).trans ?_
  simp only [hcb]
  rfl

theorem exec_writeRom_of_handler {id : HandlerId} (hcb : i.cb[cbByteWrite] = some id) (addr : Addr) (data : Byte) :
    exec (.writeRom addr data) s =
      callHandler s.nest id cbByteWrite (addr &&& i.mask) (some data) (writeViews i addr data s) fun _ t =>
        finish t 0#32 := by
  refine (checked_withActive_of_opened hs _).trans ?_
  simp only [hcb]

end

/-- Settles O40: `writeViews` is the state the handler is called in, whether or not WR is mapped. -/
theorem writeRomEffect : Obligations.WriteRomEffect := by
  refine ⟨fun _ _ => commonViolations_of_needsActive rfl rfl, fun s a i addr data hs => ?_⟩
  have hwrites := writeViews_onlyWritesHost i addr data s
  refine ⟨writeViews i addr data s, fun hmem => writeViews_hostByte i addr data hmem, hwrites.eq_with_mem,
    fun hcb => exec_writeRom_of_absent hs hcb addr data, fun id hcb => ?_⟩
  rw [afterHandler_eq_callHandler, hwrites.nest_eq]
  exact exec_writeRom_of_handler hs hcb addr data

end Sys2Proof.Machine
end

section
/-! Engine behaviours one after another, and the interrupt commands SETIRQ and SETIRQX (R180 to R187). -/

namespace Sys2Proof.Machine

/-! The queued engine scripts: with nothing nested a behaviour's bus accesses leave them alone. -/

theorem State.pokeAll_engineIn (acts : List HandlerAct) :
    ∀ s : State, (s.pokeAll acts).env.engineIn = s.env.engineIn := by
  induction acts with
  | nil => exact fun _ => rfl
  | cons act rest ih => intro s; cases act <;> exact ih _

@[simp] theorem nextHandler_engineIn (s : State) (id sel a) :
    (nextHandler s id sel a).2.env.engineIn = s.env.engineIn := by
  rcases nextHandler_snd s id sel a with h | h <;> rw [h] <;> rfl

theorem nextEngine_engineIn (s : State) (r call c) :
    (nextEngine s r call c).2.env.engineIn = s.env.engineIn.tail := by
  unfold nextEngine
  cases h : s.env.engineIn with
  | nil => exact h
  | cons => rfl

/-- The scripts are quiet and those of the engine are `scripts`. -/
def State.QuietWith (scripts : List EngineScript) (s : State) : Prop := s.quiet = true ∧ s.env.engineIn = scripts

theorem serving_quietWith (nest : Nest) (scripts : List EngineScript) :
    Serving True nest (State.QuietWith scripts) where
  log _ _ h := h
  res _ _ h := h
  poke _ _ _ h := h
  noInit _ h _ := h
  noActive _ h _ := h
  live := .inl trivial
  handler s id sel a d h _ := by
    obtain ⟨hq, hin⟩ := h
    rw [handlerActs_of_writes nest _ _ (nextHandler_isWrite hq id sel a)]
    refine ⟨fun _ => ⟨?_, ?_⟩, fun hne => absurd (by simp) hne⟩
    · exact (State.pokeAll_quiet _ _).trans (nextHandler_quiet hq id sel a)
    · exact (State.pokeAll_engineIn _ _).trans ((nextHandler_engineIn s id sel a).trans hin)

theorem busInstr_isAccess (kind : BitVec 3) (addr : Addr) (wdata : Byte) :
    isAccess (busInstr kind addr wdata) = true := by
  unfold busInstr
  split <;> rfl

/-- Handlers and bus accesses take no engine script, so a behaviour leaves the queue as it was. -/
theorem engineActs_quietWith (nest : Nest) (scripts : List EngineScript) {acts : List EngineAct}
    (hl : acts.all EngineAct.isLegal = true) :
    ∀ s : State, s.QuietWith scripts → Ends True (engineActs nest acts s) (State.QuietWith scripts) := by
  induction acts with
  | nil => exact fun _ hs => hs
  | cons act rest ih =>
    intro s hs
    obtain ⟨hact, hrest⟩ : act.isLegal = true ∧ rest.all EngineAct.isLegal = true := by simpa using hl
    cases act with
    | setContext c => exact ih hrest (s.setWctx (.live c)) hs
    | access kind addr wdata =>
      refine ends_andThen.2 (ends_andThen.2 ?_)
      rw [busCommand_eq_nestedCommand (of_decide_eq_true hact)]
      exact ((serving_quietWith nest scripts).access (busInstr_isAccess kind addr wdata) hs).mono fun t ht =>
        ih hrest (t.log _) ht

/-- An invocation takes one script, and its behaviour no other. -/
theorem invoke_engineIn {nest : Nest} {call : EngineCall} {s t : State} (hq : s.quiet = true)
    (h : invoke nest call s (fun _ u => .next u) = .next t) : t.env.engineIn = s.env.engineIn.tail := by
  obtain ⟨a, i, c, u, -, -, -, hu, hut⟩ := invoke_eq_next.1 h
  obtain rfl : u = t := by simpa using hut
  have hrun := engineActs_quietWith nest s.env.engineIn.tail (nextEngine_isLegal hq (routineOf i.variant call) call c)
    ((nextEngine s (routineOf i.variant call) call c).2.log (.ectl a (routineOf i.variant call) call))
    ⟨nextEngine_quiet hq _ call c, nextEngine_engineIn s _ call c⟩
  exact (ends_true_iff.1 hrun u hu).2

/-! Behaviours one after another. -/

/-- `t` is what the behaviours behind `fs` of the active instance leave when they are invoked in `s` one after
another with nothing nested: the calls are the transfers on port ECTL, and WCTX holds `e`, which the scripts determine
when one is queued for each call. -/
structure QuietCalls (fs : List EngineCall) (a : Slot) (i : Instance) (c e : Ctx) (s t : State)
    (new : List PortEvent) : Prop where
  block : s.SameButContext t
  cur : t.cur = s.cur
  wctx : t.wctx = .live e
  scripted : fs.length ≤ s.env.engineIn.length →
    e = (s.env.engineIn.take fs.length).foldl (fun x b => contextAfter b.acts x) c
  ports : t.env.ports = s.env.ports ++ new
  calls : ectlCalls new = fs.map fun f => (a, f)
  idle : s.env.engineIn.all (fun b => noAccess b.acts) = true →
    t.env.mem = s.env.mem ∧ new = fs.map fun f => .ectl a (routineOf i.variant f) f

/-- Where no queued script makes a bus access the next behaviour makes none: without a script it has none to make. -/
theorem nextEngine_noAccess {s : State} (h : s.env.engineIn.all (fun b => noAccess b.acts) = true) (r : Routine)
    (call : EngineCall) (c : Ctx) : noAccess (nextEngine s r call c).1.acts = true := by
  unfold nextEngine
  split
  · next e rest he => exact List.all_eq_true.1 h e (by simp [he])
  · rfl

theorem nextEngine_of_cons {s : State} {e : EngineScript} {rest : List EngineScript} (h : s.env.engineIn = e :: rest)
    (r : Routine) (call : EngineCall) (c : Ctx) : (nextEngine s r call c).1 = e := by
  simp [nextEngine, h]

theorem QuietCalls.nil {a : Slot} {i : Instance} {c : Ctx} {s : State} (hc : s.wctx = .live c) :
    QuietCalls [] a i c c s s [] :=
  ⟨⟨rfl, rfl, rfl, rfl⟩, rfl, hc, fun _ => rfl, (List.append_nil _).symm, rfl, fun _ => ⟨rfl, rfl⟩⟩

theorem QuietCalls.cons {call : EngineCall} {fs : List EngineCall} {a : Slot} {i : Instance} {c e : Ctx}
    {s t u : State} {xs ys : List PortEvent} (h : QuietCall call a i c s t xs)
    (hscripts : t.env.engineIn = s.env.engineIn.tail)
    (g : QuietCalls fs a i (contextAfter (nextEngine s (routineOf i.variant call) call c).1.acts c) e t u ys) :
    QuietCalls (call :: fs) a i c e s u (xs ++ ys) where
  block := ⟨g.block.count.trans h.block.count, g.block.active.trans h.block.active, g.block.slots.trans h.block.slots,
    g.block.viol.trans h.block.viol⟩
  cur := g.cur.trans h.cur
  wctx := g.wctx
  scripted hlen := by
    have hrest := g.scripted
    rw [hscripts] at hrest
    cases hin : s.env.engineIn with
    | nil => simp [hin] at hlen
    | cons b rest =>
      rw [nextEngine_of_cons hin, hin] at hrest
      exact hrest (by simpa [hin] using hlen)
  ports := by rw [g.ports, h.ports, List.append_assoc]
  calls := by rw [ectlCalls_append, h.calls, g.calls]; rfl
  idle hno := by
    obtain ⟨hmem, rfl⟩ := h.idle (nextEngine_noAccess hno _ call c)
    have htail : t.env.engineIn.all (fun b => noAccess b.acts) = true :=
      hscripts ▸ List.all_eq_true.2 fun b hb => List.all_eq_true.1 hno b (List.mem_of_mem_tail hb)
    obtain ⟨hmem', rfl⟩ := g.idle htail
    exact ⟨hmem'.trans hmem, rfl⟩

theorem invokeAll_of_quiet (nest : Nest) {a : Slot} {i : Instance} (fs : List EngineCall) :
    ∀ {s : State} {c : Ctx}, s.Ready a i c → s.quiet = true →
      ∃ t e new, invokeAll nest fs s = .next t ∧ QuietCalls fs a i c e s t new := by
  induction fs with
  | nil => exact fun {s c} hs _ => ⟨s, c, [], rfl, .nil hs.wctx⟩
  | cons call rest ih =>
    intro s c hs hq
    obtain ⟨t, xs, hcall, ht⟩ := invoke_of_quiet nest call hs hq
    obtain ⟨u, e, ys, hu, hrest⟩ :=
      ih ⟨hs.toOpened.of_slots hcall.block.count hcall.block.active hcall.block.slots, hcall.wctx⟩ hcall.quiet
    exact ⟨u, e, xs ++ ys, (ht fun _ => invokeAll nest rest).trans hu, hrest.cons hcall (invoke_engineIn hq (ht _))⟩

/-! SETIRQ (R180 to R185). -/

theorem andThen_invokeVoid (nest : Nest) (call : EngineCall) (s : State) (k l : State → Out) :
    andThen (invokeVoid nest call s k) l = invokeVoid nest call s fun t => andThen (k t) l := by
  simp only [invokeVoid_eq_andThen, andThen_assoc]

/-- `Apply(line, status)` is the behaviours of `irqCalls` one after another (R181 to R185). -/
theorem applyIrq_eq_invokeAll (nest : Nest) (line : BitVec 8) (status : IrqStatus) (s : State) (k : State → Out) :
    applyIrq nest line status s k = andThen (invokeAll nest (irqCalls line status) s) k := by
  cases status with
  | none | ack | hold => simp only [applyIrq, setLine, irqCalls, invokeAll, andThen_invokeVoid, andThen_next]
  | auto =>
    simp only [applyIrq, irqCalls]
    split <;> simp only [setLine, invokeAll, andThen_invokeVoid, andThen_next]

theorem exec_setIrq_of_opened {s : State} {a : Slot} {i : Instance} (hs : s.Opened a i) (line : BitVec 8)
    (status : IrqStatus) :
    exec (.setIrq line status) s = applyIrq s.nest line status s fun t => finish t 0#32 :=
  commonChecks_of hs.count hs.active _

/-- Settles O46: the common checks, then the behaviours of `irqCalls`, of which `QuietCalls` says what they leave with
nothing nested. -/
theorem setIrqEffect : Obligations.SetIrqEffect := by
  refine ⟨fun _ _ => commonViolations_of_needsActive rfl rfl, fun s a i c line status hs => ?_⟩
  have hexec := (exec_setIrq_of_opened hs.toOpened line status).trans (applyIrq_eq_invokeAll _ _ _ s _)
  refine ⟨hexec, fun hq => ?_⟩
  obtain ⟨t, e, new, ht, hcalls⟩ := invokeAll_of_quiet s.nest (irqCalls line status) hs hq
  rw [ht] at hexec
  exact ⟨t.setRes 0#32, new, e, hexec,
    ⟨hcalls.block.count, hcalls.block.active, hcalls.block.slots, hcalls.block.viol⟩, hcalls.cur, rfl, hcalls.wctx,
    hcalls.scripted, hcalls.ports, hcalls.calls, hcalls.idle⟩

/-! SETIRQX (R186, R187). -/

/-- `v` is what OPEN of slot `b` with instance `j`, the behaviours behind `fs` and CLOSE leave when they begin in `r`
with nothing nested: of the block the saved context `rb` of the slot, and CUR. -/
structure OpenedRun (fs : List EngineCall) (b : Slot) (j : Instance) (rb : Ctx) (r v : State) (new : List PortEvent) :
    Prop where
  count : v.count = r.count
  active : v.active = none
  wctx : v.wctx = .poison
  slot : ∀ x, v.slot x = if b = x then some { j with rb := rb } else r.slot x
  cur : v.cur = j.total
  viol : v.viol = r.viol
  scripted : fs.length ≤ r.env.engineIn.length →
    rb = saveContext ((r.env.engineIn.take fs.length).foldl (fun x e => contextAfter e.acts x) (loadContext j.rb))
  ports : v.env.ports = r.env.ports ++ new
  calls : ectlCalls new = (b, .loadContext) :: (fs.map (fun f => (b, f)) ++ [(b, .saveContext)])
  idle : r.env.engineIn.all (fun e => noAccess e.acts) = true →
    v.env.mem = r.env.mem ∧
      new = .ectl b .shared .loadContext ::
        (fs.map (fun f => .ectl b (routineOf j.variant f) f) ++ [.ectl b .shared .saveContext])

/-- CLOSE saves what the behaviours left, and the cycle count that OPEN took from the slot (R102, R103). -/
theorem QuietCalls.openedRun {fs : List EngineCall} {b : Slot} {j : Instance} {e : Ctx} {r u : State}
    {new : List PortEvent} (h : QuietCalls fs b j (loadContext j.rb) e (opened r b j) u new) :
    OpenedRun fs b j (saveContext e) r (closed u b j e)
      (.ectl b .shared .loadContext :: (new ++ [.ectl b .shared .saveContext])) where
  count := h.block.count
  active := rfl
  wctx := rfl
  slot x := by
    have hcur : u.cur = j.total := h.cur
    rw [closed_slot, hcur, State.ext_slots h.block.slots, opened_slot]
  cur := h.cur
  viol := h.block.viol
  scripted hlen := congrArg saveContext (h.scripted hlen)
  ports := by simp [closed, h.ports, opened]
  calls := by simp [ectlCalls, ectlCalls_append, h.calls]
  idle hno := by
    obtain ⟨hmem, rfl⟩ := h.idle hno
    exact ⟨hmem, rfl⟩

theorem applyIrq_opened_of_quiet (nest : Nest) {r : State} {b : Slot} {j : Instance} (hc : r.count ≠ 0#32)
    (hj : r.slot b = some j) (hq : r.quiet = true) (line : BitVec 8) (status : IrqStatus) :
    ∃ v rb new, OpenedRun (irqCalls line status) b j rb r v new ∧ ∀ k : State → Out,
      (doOpen r b fun t => applyIrq nest line status t fun u => doClose u k) = k v := by
  have hready : (opened r b j).Ready b j (loadContext j.rb) := ⟨⟨hc, rfl, hj⟩, rfl⟩
  obtain ⟨u, e, new, hu, hcalls⟩ := invokeAll_of_quiet nest (irqCalls line status) hready hq
  refine ⟨closed u b j e, saveContext e, _, hcalls.openedRun, fun k => ?_⟩
  have hslot : u.slot b = some j := (State.ext_slots hcalls.block.slots b).trans hj
  rw [doOpen_of hj, applyIrq_eq_invokeAll, hu, andThen_next, doClose_of hcalls.block.active hslot hcalls.wctx]

section
variable {s : State} {tb : BitVec 8} {b : Slot} {j : Instance} (hc : s.count ≠ 0#32) (hb : tb.toNat = b.val)
  (hj : s.slot b = some j) (line : BitVec 8) (status : IrqStatus)
include hc hb hj

theorem exec_setIrqx_of_active (ha : s.active = some b) :
    exec (.setIrqx tb line status) s = applyIrq s.nest line status s fun t => finish t 0#32 :=
  (checkInit_of hc _).trans <| (checkLive_of (slotOf_eq_some.2 hb) hj _).trans (if_pos ha)

theorem exec_setIrqx_of_other (ha : s.active ≠ some b) :
    exec (.setIrqx tb line status) s = bracketed s.nest b line status s :=
  (checkInit_of hc _).trans <| (checkLive_of (slotOf_eq_some.2 hb) hj _).trans (if_neg ha)

end

theorem exec_setIrqx_of_badSlot {s : State} {tb : BitVec 8} (hc : s.count ≠ 0#32) (hb : s.isLive tb = false)
    (line : BitVec 8) (status : IrqStatus) : exec (.setIrqx tb line status) s = .next (s.violate .badSlot) :=
  (checkInit_of hc _).trans (checkLive_of_badSlot hb _)

theorem bracketed_of_none (nest : Nest) {s : State} (ha : s.active = none) (b : Slot) (line : BitVec 8)
    (status : IrqStatus) :
    bracketed nest b line status s =
      doOpen s b fun t => applyIrq nest line status t fun u => doClose u fun v => finish v 0#32 := by
  simp only [bracketed, ha]

/-- The bracket with slot `a` open: CLOSE, the bracket of the target, and OPEN of `a` again. -/
theorem bracketed_of_ready (nest : Nest) {s : State} {a : Slot} {i : Instance} {c : Ctx} (hs : s.Ready a i c) (b : Slot)
    (line : BitVec 8) (status : IrqStatus) :
    bracketed nest b line status s =
      doOpen (closed s a i c) b fun t => applyIrq nest line status t fun u => doClose u fun v =>
        doOpen v a fun w => finish w 0#32 := by
  simp only [bracketed, hs.active]
  exact doClose_of hs.active hs.slot hs.wctx _

/-- Settles O47: the bracket of the target runs in the state that CLOSE leaves and writes only the target's slot, so
what CLOSE saved of the active instance is what OPEN loads again. -/
theorem setIrqxPreserves : Obligations.SetIrqxPreserves := by
  intro s a b i j c tb line status hs hq hab hb hj
  have hjr : (closed s a i c).slot b = some j := by rw [closed_slot, if_neg hab, hj]
  obtain ⟨v, rb, new, hrun, hv⟩ := applyIrq_opened_of_quiet s.nest (r := closed s a i c) hs.count hjr hq line status
  have hslot (x : Slot) := (hrun.slot x).trans (by rw [closed_slot])
  have hsaved : v.slot a = some { i with rb := saveContext c, total := s.cur } := by
    rw [hslot, if_neg hab.symm, if_pos rfl]
  have hexec : exec (.setIrqx tb line status) s =
      .next ((opened v a { i with rb := saveContext c, total := s.cur }).setRes 0#32) :=
    calc exec (.setIrqx tb line status) s
        = bracketed s.nest b line status s :=
          exec_setIrqx_of_other hs.count hb hj line status (by simp [hs.active, hab])
      _ = doOpen v a fun w => finish w 0#32 := by rw [bracketed_of_ready _ hs, hv]
      _ = _ := doOpen_of hsaved _
  refine ⟨_, .ectl a .shared .saveContext :: (new ++ [.ectl a .shared .loadContext]), rb, hexec, rfl, rfl, rfl, hsaved,
    (hslot b).trans (if_pos rfl), hrun.scripted, fun x hxa hxb => ?_, hrun.count, hrun.viol, rfl, ?_, ?_,
    fun hno => ?_⟩
  · exact (hslot x).trans (by rw [if_neg hxb.symm, if_neg hxa.symm])
  · simp [opened, hrun.ports, closed]
  · simp [ectlCalls, ectlCalls_append, hrun.calls]
  · obtain ⟨hmem, rfl⟩ := hrun.idle hno
    exact ⟨hmem, by simp⟩

/-- Settles O48: the checks in order, then the bracket of the target with nothing to close before it. -/
theorem setIrqxOtherCases : Obligations.SetIrqxOtherCases := by
  refine ⟨fun _ _ _ _ hc => exec_of_count_zero rfl rfl hc,
    fun _ _ line status hc hb => exec_setIrqx_of_badSlot hc (isLive_eq_false.2 hb) line status,
    fun s a i tb line status hs hb => ?_, fun s b j tb line status hc ha hb hj hq => ?_⟩
  · rw [exec_setIrqx_of_active hs.count hb hs.slot line status hs.active, exec_setIrq_of_opened hs]
  · obtain ⟨v, rb, new, hrun, hv⟩ := applyIrq_opened_of_quiet s.nest hc hj hq line status
    have hexec : exec (.setIrqx tb line status) s = .next (v.setRes 0#32) := by
      rw [exec_setIrqx_of_other hc hb hj line status (by simp [ha]), bracketed_of_none _ ha, hv]
      rfl
    exact ⟨_, new, rb, hexec, hrun.active, hrun.wctx, (hrun.slot b).trans (if_pos rfl), hrun.scripted,
      fun x hx => (hrun.slot x).trans (if_neg hx.symm), hrun.count, hrun.cur, hrun.viol, rfl, hrun.ports, hrun.calls,
      hrun.idle⟩

end Sys2Proof.Machine
end

section
/-! The cycle counters (R200 to R206). -/

namespace Sys2Proof.Machine

/-! IDLE, GETCUR and GETSAVED (R202 to R204). -/

theorem exec_idle_of_active {s : State} {a : Slot} (hc : s.count ≠ 0#32) (ha : s.active = some a) (n : Cycles) :
    exec (.idle n) s = .next ((s.setCur (s.cur + n)).setRes 0#32) :=
  commonChecks_of hc ha _

/-- Settles O51: the common checks, then the addition of bit vectors, which is modulo 2^32. -/
theorem idleEffect : Obligations.IdleEffect := by
  refine ⟨fun _ => commonViolations_of_needsActive rfl rfl, fun s n hc ha => ?_⟩
  obtain ⟨a, ha⟩ := Option.ne_none_iff_exists'.1 ha
  exact ⟨s.cur + n, exec_idle_of_active hc ha n, BitVec.toNat_add s.cur n⟩

theorem exec_getCur_of_init {s : State} (hc : s.count ≠ 0#32) : exec .getCur s = .next (s.setRes s.cur) :=
  checkInit_of hc _

theorem exec_getSaved_of_badSlot {s : State} {b : BitVec 8} (hc : s.count ≠ 0#32) (hb : s.isLive b = false) :
    exec (.getSaved b) s = .next (s.violate .badSlot) :=
  (checkInit_of hc _).trans (checkLive_of_badSlot hb _)

theorem exec_getSaved_of_live {s : State} {b : BitVec 8} {a : Slot} {i : Instance} (hc : s.count ≠ 0#32)
    (hb : b.toNat = a.val) (hi : s.slot a = some i) : exec (.getSaved b) s = .next (s.setRes i.total) :=
  (checkInit_of hc _).trans (checkLive_of (slotOf_eq_some.2 hb) hi _)

/-- Settles O52: the checks in order, then the counter. ACTIVE is not read, so GETSAVED of the active slot is stale. -/
theorem counterReads : Obligations.CounterReads :=
  ⟨fun _ hc => exec_of_count_zero rfl rfl hc, fun _ hc => exec_getCur_of_init hc,
    fun _ _ hc => exec_of_count_zero rfl rfl hc,
    fun _ _ hc hb => exec_getSaved_of_badSlot hc (isLive_eq_false.2 hb),
    fun _ _ _ _ hc hb hi => exec_getSaved_of_live hc hb hi⟩

/-! NEWFRAME (R200). -/

/-- The state after NEWFRAME. -/
def State.newFrame (s : State) : State := ((s.setSlots (zeroTotals s.slots)).setCur 0#32).setRes 0#32

theorem State.newFrame_slot (s : State) (a : Slot) :
    s.newFrame.slot a = (s.slot a).map fun i => { i with total := 0#32 } :=
  zeroTotals_slot s a

theorem exec_newFrame_of_init {s : State} (hc : s.count ≠ 0#32) : exec .newFrame s = .next s.newFrame :=
  checkInit_of hc _

/-- Settles O49: the state after NEWFRAME is `newFrame`, whose counters GETCUR and GETSAVED read. -/
theorem newFrameEffect : Obligations.NewFrameEffect := by
  refine ⟨fun _ hc => exec_of_count_zero rfl rfl hc, fun s hc => ?_⟩
  refine ⟨s.newFrame, exec_newFrame_of_init hc, s.newFrame_slot, rfl, exec_getCur_of_init hc, fun b a hb hi => ?_⟩
  obtain ⟨i, hi⟩ := Option.ne_none_iff_exists'.1 hi
  have hzeroed : s.newFrame.slot a = some { i with total := 0#32 } := by rw [State.newFrame_slot, hi]; rfl
  exact exec_getSaved_of_live (s := s.newFrame) hc hb hzeroed

/-! RUN (R201). -/

section
variable {s : State} {a : Slot} {i : Instance} {c : Ctx} (hs : s.Ready a i c) (n : Cycles)
include hs

theorem exec_run_of_ready :
    exec (.run n) s = invoke s.nest (.execute n) s fun m t => finish (t.setCur (t.cur + m)) m :=
  commonChecks_of hs.count hs.active _

/-- With nothing nested RUN is one quiet call of `execute`, after which its count is added to CUR. -/
theorem exec_run_of_quiet (hq : s.quiet = true) {e : EngineScript} {u : State}
    (he : nextEngine s (routineOf i.variant (.execute n)) (.execute n) c = (e, u)) :
    ∃ t new, QuietCall (.execute n) a i c s t new ∧
      exec (.run n) s = .next ((t.setCur (s.cur + e.consumed)).setRes e.consumed) := by
  obtain ⟨t, new, hcall, ht⟩ := invoke_of_quiet s.nest (.execute n) hs hq
  refine ⟨t, new, hcall, ?_⟩
  rw [exec_run_of_ready hs, ht, he, hcall.cur]
  rfl

end

/-- Settles O50: the common checks, then the behaviour and the one addition to CUR; `QuietCall` says what `execute`
leaves with nothing nested. -/
theorem runEffect : Obligations.RunEffect := by
  refine ⟨fun _ => commonViolations_of_needsActive rfl rfl, fun s a i c n e u hs he => ⟨?_, fun hq => ?_⟩⟩
  · rw [exec_run_of_ready hs, invoke_of hs.active hs.slot hs.wctx, he]
    rfl
  · obtain ⟨t, new, hcall, hexec⟩ := exec_run_of_quiet hs n hq he
    have hwctx := hcall.wctx
    have hidle := hcall.idle
    rw [he] at hwctx hidle
    exact ⟨_, new, hexec, ⟨hcall.block.count, hcall.block.active, hcall.block.slots, hcall.block.viol⟩, rfl, rfl, hwctx,
      hcall.ports, hcall.calls, hidle⟩

/-! Cycle continuity (R205). -/

/-- After RUN with nothing nested slot `a` is ready for the next command, CUR has grown by RES, and no saved total
has changed. -/
theorem exec_run_keeps_ready {s : State} {a : Slot} {i : Instance} {c : Ctx} (hs : s.Ready a i c) (hq : s.quiet = true)
    (n : Cycles) :
    ∃ t d, exec (.run n) s = .next t ∧ t.Ready a i d ∧ t.quiet = true ∧ t.slots = s.slots ∧ t.cur = s.cur + t.res := by
  obtain ⟨t, new, hcall, hexec⟩ := exec_run_of_quiet hs n hq rfl
  have hopened := hs.toOpened.of_slots hcall.block.count hcall.block.active hcall.block.slots
  exact ⟨_, _, hexec, ⟨⟨hopened.count, hopened.active, hopened.slot⟩, hcall.wctx⟩, hcall.quiet, hcall.block.slots, rfl⟩

/-- The state after CLOSE of slot `a` and OPEN of slot `b`. -/
def State.switched (s : State) (a : Slot) (i : Instance) (c : Ctx) (b : Slot) (j : Instance) : State :=
  (opened ((closed s a i c).setRes 0#32) b j).setRes 0#32

section
variable {s : State} {a b : Slot} {i j : Instance} {c : Ctx} (hs : s.Ready a i c)

/-- CLOSE saves CUR as the total of the slot it closes (R103). -/
theorem closed_slot_self : (closed s a i c).slot a = some { i with rb := saveContext c, total := s.cur } :=
  (closed_slot s a i c a).trans (if_pos rfl)

theorem closed_slot_other (hab : a ≠ b) (hj : s.slot b = some j) : (closed s a i c).slot b = some j :=
  (closed_slot s a i c b).trans ((if_neg hab).trans hj)

include hs

theorem State.Ready.switched (hab : a ≠ b) (hj : s.slot b = some j) :
    (s.switched a i c b j).Ready b j (loadContext j.rb) :=
  opened_ready (s := (closed s a i c).setRes 0#32) hs.count (closed_slot_other hab hj) 0#32

theorem execAll_close_openSlot (hab : a ≠ b) (hj : s.slot b = some j) {tb : BitVec 8} (hb : tb.toNat = b.val)
    (rest : List Instr) :
    execAll (.close :: .openSlot tb :: rest) s = execAll rest (s.switched a i c b j) := by
  have hopen : exec (.openSlot tb) ((closed s a i c).setRes 0#32) = .next (s.switched a i c b j) :=
    exec_openSlot_of_noActive (s := (closed s a i c).setRes 0#32) hs.count hb (closed_slot_other hab hj) rfl
  simp only [execAll, exec_close_of_ready hs, hopen, andThen_next]

theorem execAll_close_getSaved {ta : BitVec 8} (ha : ta.toNat = a.val) :
    execAll [.close, .getSaved ta] s = .next ((closed s a i c).setRes s.cur) :=
  execAll_pair (exec_close_of_ready hs)
    (exec_getSaved_of_live (s := (closed s a i c).setRes 0#32) hs.count ha closed_slot_self)

/-- While slot `b` is open it runs and idles, and nothing of that reaches slot `a`: reopened, it goes on from the CUR
at which it was closed. -/
theorem execAll_otherTurn_keeps_cur (hq : s.quiet = true) (hab : a ≠ b) (hj : s.slot b = some j) {ta tb : BitVec 8}
    (ha : ta.toNat = a.val) (hb : tb.toNat = b.val) (n m : Cycles) :
    ∃ u k d, execAll [.close, .openSlot tb, .run n, .idle m, .close, .openSlot ta] s = .next u ∧ u.Ready a k d ∧
      u.quiet = true ∧ u.cur = s.cur := by
  have hopen := hs.switched hab hj
  obtain ⟨r, d, hrun, hready, hquiet, hslots, -⟩ := exec_run_keeps_ready hopen hq n
  have hidle := exec_idle_of_active hready.count hready.active m
  have hready' : ((r.setCur (r.cur + m)).setRes 0#32).Ready b j d :=
    ⟨⟨hready.count, hready.active, hready.slot⟩, hready.wctx⟩
  have hsaved : ((r.setCur (r.cur + m)).setRes 0#32).slot a = some { i with rb := saveContext c, total := s.cur } :=
    (State.ext_slots hslots a).trans closed_slot_self
  refine ⟨_, _, _, ?_, hready'.switched hab.symm hsaved, hquiet, rfl⟩
  rw [execAll_close_openSlot hs hab hj hb, execAll, hrun, andThen_next, execAll, hidle, andThen_next,
    execAll_close_openSlot hready' hab.symm hsaved ha]
  rfl

end

/-- Settles O53: CUR grows by RES at each RUN, and what slot `b` does between leaves slot `a` the CUR it was closed
at. -/
theorem cycleContinuity : Obligations.CycleContinuity := by
  intro s a b i j c ta tb n1 n2 n3 n4 hs hq hab ha hb hj
  obtain ⟨t, _, ht, htready, htquiet, htslots, htcur⟩ := exec_run_keeps_ready hs hq n1
  obtain ⟨u, _, _, hu, huready, huquiet, hucur⟩ :=
    execAll_otherTurn_keeps_cur htready htquiet hab ((State.ext_slots htslots b).trans hj) ha hb n2 n3
  obtain ⟨v, _, hv, hvready, -, -, hvcur⟩ := exec_run_keeps_ready huready huquiet n4
  refine ⟨t, u, v, _, ht, hu, hv, execAll_close_getSaved hvready ha, ?_⟩
  calc v.cur = u.cur + v.res := hvcur
    _ = s.cur + t.res + v.res := by rw [hucur, htcur]

end Sys2Proof.Machine
end

section
/-! SCAN with nothing nested (R215 to R217): what its records present and, in the write direction, write. -/

namespace Sys2Proof.Machine

/-! One record. -/

/-- What the snapshot driver does with the `k`-th record of a SCAN that begins in `s`, when that is slot `a`'s: the
`k`-th queued script, or free values with the serial number reached by then. -/
def State.supplied (s : State) (k : Nat) (a : Slot) : SnapScript :=
  s.env.snapIn[k]?.getD
    { commands := []
      rb := Config.freeBlock a (s.env.serial + (k - s.env.snapIn.length))
      total := Config.freeTotal a (s.env.serial + (k - s.env.snapIn.length))
      segment := Config.freeSegment a (s.env.serial + (k - s.env.snapIn.length)) }

theorem State.supplied_of_script {s : State} {k : Nat} {d : SnapScript} (h : s.env.snapIn[k]? = some d) (a : Slot) :
    s.supplied k a = d := by
  simp [State.supplied, h]

theorem nextSnap_fst (s : State) (a : Slot) : (nextSnap s a).1 = s.supplied 0 a := by
  unfold nextSnap State.supplied
  split <;> simp [*]

/-- Once the first record's values are taken, the `k`-th that remains is the one after it. -/
theorem nextSnap_supplied (s : State) (a : Slot) (k : Nat) (b : Slot) :
    (nextSnap s a).2.supplied k b = s.supplied (k + 1) b := by
  unfold nextSnap State.supplied
  split
  · next d rest h => simp [h]
  · next h => simp [h, State.useSerial, Nat.add_assoc, Nat.add_comm 1]

@[simp] theorem nextSnap_ports (s : State) (a : Slot) : (nextSnap s a).2.env.ports = s.env.ports := by
  rcases nextSnap_snd s a with h | h <;> rw [h] <;> rfl

/-- Taking the driver's script touches the environment alone. -/
theorem nextSnap_frame (s : State) (a : Slot) : (nextSnap s a).2 = { s with env := (nextSnap s a).2.env } := by
  rcases nextSnap_snd s a with h | h <;> rw [h] <;> rfl

/-- An instance after its record: the driver's values are written in the write direction only (R215). -/
def Instance.recorded (i : Instance) (write : Bool) (d : SnapScript) : Instance := if write then i.restore d else i

@[simp] theorem Instance.recorded_read (i : Instance) (d : SnapScript) : i.recorded false d = i := rfl
@[simp] theorem Instance.recorded_write (i : Instance) (d : SnapScript) : i.recorded true d = i.restore d := rfl

/-- The state after the record of the live slot `a`, for a driver that issues no command. -/
def State.recorded (s : State) (write : Bool) (a : Slot) (i : Instance) : State :=
  ((nextSnap s a).2.log (.snap (Config.snapNaming.name a) i.rb i.total i.segment write)).setSlot a
    (some (i.recorded write (s.supplied 0 a)))

section
variable {s : State} {a : Slot} {i : Instance}

theorem scanRecord_of_quiet (nest : Nest) (write : Bool) (hq : s.quiet = true) (hi : s.slot a = some i)
    (k : State → Out) : scanRecord nest write a i s k = k (s.recorded write a i) := by
  have hu : ((nextSnap s a).2.log (.snap (Config.snapNaming.name a) i.rb i.total i.segment write)).slot a = some i := by
    simp [hi]
  rw [scanRecord_of_commands (by rw [nextSnap_commands hq a, snapCommands]), State.recorded, nextSnap_fst]
  cases write with
  | false => rw [Instance.recorded_read, State.setSlot_same _ a hu]; rfl
  | true => exact withInstance_of hu _

theorem State.recorded_frame (write : Bool) :
    s.recorded write a i = { s with slots := (s.recorded write a i).slots, env := (s.recorded write a i).env } := by
  unfold State.recorded
  rw [nextSnap_frame]
  rfl

theorem State.recorded_quiet (hq : s.quiet = true) (write : Bool) : (s.recorded write a i).quiet = true :=
  nextSnap_quiet hq a

@[simp] theorem State.recorded_mem (write : Bool) : (s.recorded write a i).env.mem = s.env.mem :=
  nextSnap_mem s a

@[simp] theorem State.recorded_ports (write : Bool) :
    (s.recorded write a i).env.ports =
      s.env.ports ++ [.snap (Config.snapNaming.name a) i.rb i.total i.segment write] :=
  congrArg (· ++ [_]) (nextSnap_ports s a)

theorem State.recorded_supplied (write : Bool) (k : Nat) (b : Slot) :
    (s.recorded write a i).supplied k b = s.supplied (k + 1) b :=
  nextSnap_supplied s a k b

@[simp] theorem State.recorded_slot_self (write : Bool) :
    (s.recorded write a i).slot a = some (i.recorded write (s.supplied 0 a)) :=
  State.setSlot_slot_self _ a _

theorem State.recorded_slot_ne (write : Bool) {b : Slot} (h : a ≠ b) : (s.recorded write a i).slot b = s.slot b :=
  (State.setSlot_slot_ne _ _ h).trans (nextSnap_slot s a b)

end

/-! The records of a list of slots. -/

/-- The record a SCAN presents of slot `a`, absent when the slot is (R215). -/
def State.snapRecord (s : State) (write : Bool) (a : Slot) : Option PortEvent :=
  (s.slot a).map fun i => .snap (Config.snapNaming.name a) i.rb i.total i.segment write

/-- The live slots below `a` among `slots`: their records come before that of `a`. -/
def State.liveBelowIn (s : State) (slots : List Slot) (a : Slot) : List Slot :=
  slots.filter fun b => b < a ∧ (s.slot b).isSome

/-- `t` is `s` after the records of `slots`, but for RES. -/
structure Scanned (write : Bool) (slots : List Slot) (s t : State) : Prop where
  frame : t = { s with slots := t.slots, env := t.env }
  mem : t.env.mem = s.env.mem
  ports : t.env.ports = s.env.ports ++ slots.filterMap (s.snapRecord write)
  unreached : ∀ a ∉ slots, t.slot a = s.slot a
  reached : ∀ a ∈ slots,
    t.slot a = (s.slot a).map fun i => i.recorded write (s.supplied (s.liveBelowIn slots a).length a)

section
variable {write : Bool} {b : Slot} {rest : List Slot} {s t : State}

theorem Scanned.nil : Scanned write [] s s :=
  ⟨rfl, rfl, by simp, fun _ _ => rfl, nofun⟩

/-- No slot below the first of an ascending list is in it. -/
theorem liveBelowIn_head (hb : ∀ a ∈ rest, b < a) : s.liveBelowIn (b :: rest) b = [] := by
  simp only [State.liveBelowIn, List.filter_eq_nil_iff, List.mem_cons, decide_eq_true_eq]
  rintro a (rfl | ha) ⟨hlt, -⟩
  · exact lt_irrefl _ hlt
  · exact lt_asymm hlt (hb a ha)

/-- An absent slot has no record. -/
theorem Scanned.cons_of_absent (hb : ∀ a ∈ rest, b < a) (hn : s.slot b = none) (h : Scanned write rest s t) :
    Scanned write (b :: rest) s t where
  frame := h.frame
  mem := h.mem
  ports := by simpa [State.snapRecord, hn] using h.ports
  unreached a ha := h.unreached a fun hr => ha (.tail b hr)
  reached a ha := by
    rcases List.mem_cons.1 ha with rfl | ha
    · simpa [hn] using h.unreached a fun hr => lt_irrefl a (hb a hr)
    · simpa [State.liveBelowIn, hn] using h.reached a ha

/-- The record of a live slot comes before those of the slots above it. -/
theorem Scanned.cons_of_live {i : Instance} (hb : ∀ a ∈ rest, b < a) (hi : s.slot b = some i)
    (h : Scanned write rest (s.recorded write b i) t) : Scanned write (b :: rest) s t where
  frame := h.frame.trans (by rw [State.recorded_frame])
  mem := h.mem.trans (State.recorded_mem write)
  ports := by
    have hrest : rest.filterMap ((s.recorded write b i).snapRecord write) = rest.filterMap (s.snapRecord write) :=
      List.filterMap_congr fun a ha => by
        rw [State.snapRecord, State.recorded_slot_ne write (hb a ha).ne, State.snapRecord]
    rw [h.ports, hrest]
    simp [State.snapRecord, hi]
  unreached a ha := by
    obtain ⟨hab, har⟩ : a ≠ b ∧ a ∉ rest := by simpa using ha
    exact (h.unreached a har).trans (State.recorded_slot_ne write hab.symm)
  reached a ha := by
    rcases List.mem_cons.1 ha with rfl | ha
    · rw [h.unreached a fun hr => lt_irrefl a (hb a hr), liveBelowIn_head hb, hi, State.recorded_slot_self]
      rfl
    · have hbelow : s.liveBelowIn (b :: rest) a = b :: (s.recorded write b i).liveBelowIn rest a := by
        simp only [State.liveBelowIn, List.filter_cons, hb a ha, hi]
        refine congrArg (b :: ·) (List.filter_congr fun c hc => ?_)
        rw [State.recorded_slot_ne write (hb c hc).ne]
      rw [h.reached a ha, hbelow, State.recorded_slot_ne write (hb a ha).ne, List.length_cons]
      simp only [State.recorded_supplied]

end

/-- With nothing nested a SCAN comes to its end, after the record of each live slot. -/
theorem scanSlots_of_quiet (nest : Nest) (write : Bool) {slots : List Slot} (hslots : slots.Pairwise (· < ·)) :
    ∀ {s : State}, s.quiet = true →
      ∃ t, scanSlots nest write slots s = .next (t.setRes 0#32) ∧ Scanned write slots s t := by
  induction hslots with
  | nil => exact fun _ => ⟨_, rfl, .nil⟩
  | @cons b rest hb _ ih =>
    intro s hq
    cases hi : s.slot b with
    | none =>
      obtain ⟨t, ht, h⟩ := ih hq
      exact ⟨t, (scanSlots_cons_of_absent _ _ hi rest).trans ht, h.cons_of_absent hb hi⟩
    | some i =>
      obtain ⟨t, ht, h⟩ := ih (State.recorded_quiet (a := b) (i := i) hq write)
      refine ⟨t, ?_, h.cons_of_live hb hi⟩
      rw [scanSlots_cons_of_live _ _ hi, scanRecord_of_quiet nest write hq hi, ht]

/-! SCAN in driver scope. -/

section
variable {s t : State}

theorem exec_scan_of_quiet (hc : s.count ≠ 0#32) (hq : s.quiet = true) (write : Bool) :
    ∃ t, exec (.scan true write) s = .next (t.setRes 0#32) ∧ Scanned write (List.finRange Config.maxCpu) s t := by
  obtain ⟨t, ht, h⟩ := scanSlots_of_quiet s.nest write (List.pairwise_lt_finRange Config.maxCpu) hq
  exact ⟨t, (checkInit_of hc _).trans ht, h⟩

/-- Reading out changes nothing of the block but RES. -/
theorem Scanned.sameBlock_of_read (h : Scanned false (List.finRange Config.maxCpu) s t) (r : Result) :
    s.SameBlock (t.setRes r) where
  count := (congrArg State.count h.frame :)
  active := (congrArg State.active h.frame :)
  slots := by
    have hslot (a : Slot) : t.slot a = s.slot a := by simpa using h.reached a (List.mem_finRange a)
    exact Vector.ext fun n hn => hslot ⟨n, hn⟩
  cur := (congrArg State.cur h.frame :)
  wctx := (congrArg State.wctx h.frame :)
  viol := (congrArg State.viol h.frame :)

/-- Writing in gives each live slot its record's values. -/
theorem Scanned.slot_of_write (h : Scanned true (List.finRange Config.maxCpu) s t) (a : Slot) :
    t.slot a = (s.slot a).map (·.restore (s.supplied (s.liveBelow a).length a)) :=
  h.reached a (List.mem_finRange a)

end

/-- Settles O54: reading out, the records are presented and every instance is put back as it was. -/
theorem scanReadOut : Obligations.ScanReadOut := by
  refine ⟨fun s driver write hc => checkInit_of_zero hc _, fun s write hc => checkInit_of hc _, fun s hc hq => ?_⟩
  obtain ⟨t, ht, h⟩ := exec_scan_of_quiet hc hq false
  exact ⟨_, ht, h.sameBlock_of_read _, rfl, h.mem, h.ports⟩

/-- Settles O55: the `k`-th live slot takes what the driver supplies with the `k`-th record. -/
theorem scanWriteIn : Obligations.ScanWriteIn := by
  intro s hc hq
  obtain ⟨t, ht, h⟩ := exec_scan_of_quiet hc hq true
  refine ⟨_, ht, congrArg (State.setRes · 0#32) h.frame, h.mem, h.ports, fun a => ⟨fun hn => ?_, fun i hi => ?_⟩⟩
  · rw [State.setRes_slot, h.slot_of_write, hn, Option.map_none]
  · refine ⟨_, _, _, by rw [State.setRes_slot, h.slot_of_write, hi]; rfl, fun d hd => ?_⟩
    rw [State.supplied_of_script hd]
    exact ⟨rfl, rfl, rfl⟩

/-- Settles O56: the naming carries the proof that it is injective. -/
theorem snapshotNamesUnique : Obligations.SnapshotNamesUnique :=
  fun _ _ h => Config.snapNaming.injective h

end Sys2Proof.Machine
end

section
/-! The first failing check (R241): for each violation, in the order of the checks, the command raises it when the
checks before it pass. -/

namespace Sys2Proof.Machine

/-! The order of the checks. -/

section
variable {i : Instr} {s : State} {u v : Violation}

/-- No check before the first failing one fails. -/
theorem raises_eq_false_of_before (h : firstViolation i s = some v) (hu : u ∈ checkOrder.takeWhile (· ≠ v)) :
    raises i s u = false := by
  obtain ⟨hv, before, after, horder, hbefore⟩ := List.find?_eq_some_iff_append.1 h
  have hne : ∀ w ∈ before, decide (w ≠ v) = true := fun w hw =>
    decide_eq_true (by rintro rfl; simpa [hv] using hbefore w hw)
  have htake : checkOrder.takeWhile (· ≠ v) = before := by
    rw [horder, List.takeWhile_append_of_pos hne]
    simp
  simpa using hbefore u (htake ▸ hu)

theorem wellFormed_of_checked (h : raises i s .badCommand = false) : i.wellFormed = true := by
  simpa [raises] using h

theorem count_ne_zero_of_checked (h : raises i s .noInit = false) (hi : needsInit i = true) : s.count ≠ 0#32 := by
  simpa [raises, hi] using h

theorem needsInit_of_needsActive (h : needsActive i = true) : needsInit i = true := by
  cases i with
  | create | destroy => cases h
  | _ => rfl

end

theorem State.isLive_eq_true {s : State} {b : BitVec 8} :
    s.isLive b = true ↔ ∃ a i, slotOf b = some a ∧ s.slot a = some i := by
  unfold State.isLive
  split <;> simp [*, Option.isSome_iff_exists]

/-! One violation at a time. -/

section
variable {i : Instr} {s : State}

theorem exec_of_badCommand (h : raises i s .badCommand = true) : exec i s = .next (s.violate .badCommand) := by
  cases i with
  | setCb sel handler =>
    have hsel : ¬ sel.toNat < 6 := by simpa [raises, Instr.wellFormed, selectorOk] using h
    exact exec_setCb_of_badSelector (Nat.not_lt.1 hsel) handler s
  | _ => cases h

theorem exec_of_noInit (hwf : i.wellFormed = true) (h : raises i s .noInit = true) :
    exec i s = .next (s.violate .noInit) := by
  obtain ⟨hi, hc⟩ : needsInit i = true ∧ s.count = 0#32 := by simpa [raises] using h
  exact exec_of_count_zero hwf hi hc

theorem exec_of_badSlot (hinit : raises i s .noInit = false) (h : raises i s .badSlot = true) :
    exec i s = .next (s.violate .badSlot) := by
  have hc := count_ne_zero_of_checked hinit
  cases i with
  | create b v => exact createBy_of_badSlot s.nest (slotOf_eq_none.1 (Option.isNone_iff_eq_none.1 h)) v s
  | openSlot b => exact exec_openSlot_of_badSlot (hc rfl) (by simpa [raises] using h)
  | setIrqx b line status => exact exec_setIrqx_of_badSlot (hc rfl) (by simpa [raises] using h) line status
  | getSaved b => exact exec_getSaved_of_badSlot (hc rfl) (by simpa [raises] using h)
  | _ => cases h

/-- A slot operand of CREATE that passes its check is below MAX_CPU. -/
theorem slot_lt_of_checked {b v : BitVec 8} (h : raises (.create b v) s .badSlot = false) : b.toNat < 8 := by
  have hsome : slotOf b ≠ none := by simpa [raises, Option.isSome_iff_ne_none] using h
  exact Nat.lt_of_not_le (mt slotOf_eq_none.2 hsome)

theorem exec_of_doubleOpen (hinit : raises i s .noInit = false) (hslot : raises i s .badSlot = false)
    (h : raises i s .doubleOpen = true) : exec i s = .next (s.violate .doubleOpen) := by
  cases i with
  | create b v => exact createBy_of_active s.nest (slot_lt_of_checked hslot) (Option.isSome_iff_ne_none.1 h) v
  | openSlot b =>
    obtain ⟨a, j, hb, hj⟩ := State.isLive_eq_true.1 (show s.isLive b = true by simpa [raises] using hslot)
    exact exec_openSlot_of_active (count_ne_zero_of_checked hinit rfl) (slotOf_eq_some.1 hb) hj
      (Option.isSome_iff_ne_none.1 h)
  | _ => cases h

theorem exec_of_noActive (hwf : i.wellFormed = true) (hinit : raises i s .noInit = false)
    (h : raises i s .noActive = true) : exec i s = .next (s.violate .noActive) := by
  obtain ⟨hi, ha⟩ : needsActive i = true ∧ s.active = none := by simpa [raises] using h
  exact (commonViolations_of_needsActive hwf hi s).2
    (count_ne_zero_of_checked hinit (needsInit_of_needsActive hi)) ha

theorem exec_of_destroyActive (h : raises i s .destroyActive = true) :
    exec i s = .next (s.violate .destroyActive) := by
  cases i with
  | destroy => exact exec_destroy_of_active (Option.isSome_iff_ne_none.1 h)
  | _ => cases h

theorem exec_of_badVariant (hslot : raises i s .badSlot = false) (hopen : raises i s .doubleOpen = false)
    (h : raises i s .badVariant = true) : exec i s = .next (s.violate .badVariant) := by
  cases i with
  | create b v =>
    have ha : s.active = none := by simpa [raises] using hopen
    have hv : 4 ≤ v.toNat := variantOf_eq_none.1 (Option.isNone_iff_eq_none.1 h)
    exact createBy_of_badVariant s.nest (slot_lt_of_checked hslot) ha hv
  | _ => cases h

theorem exec_of_badMask (hinit : raises i s .noInit = false) (hactive : raises i s .noActive = false)
    (h : raises i s .badMask = true) : exec i s = .next (s.violate .badMask) := by
  cases i with
  | setMask mask =>
    obtain ⟨a, ha⟩ : ∃ a, s.active = some a := by
      simpa [raises, needsActive, Option.isSome_iff_exists] using hactive
    have hm : ¬ maskOk mask = true := by simpa [raises] using h
    exact (commonChecks_of (count_ne_zero_of_checked hinit rfl) ha _).trans (if_neg hm)
  | _ => cases h

end

/-- The first failing check is the one that is raised (R241). -/
theorem exec_of_firstViolation {i : Instr} {s : State} {v : Violation} (h : firstViolation i s = some v) :
    exec i s = .next (s.violate v) := by
  have hv : raises i s v = true := List.find?_some h
  have before (u : Violation) (hu : u ∈ checkOrder.takeWhile (· ≠ v) := by decide) : raises i s u = false :=
    raises_eq_false_of_before h hu
  cases v with
  | badCommand => exact exec_of_badCommand hv
  | noInit => exact exec_of_noInit (wellFormed_of_checked (before .badCommand)) hv
  | badSlot => exact exec_of_badSlot (before .noInit) hv
  | doubleOpen => exact exec_of_doubleOpen (before .noInit) (before .badSlot) hv
  | noActive => exact exec_of_noActive (wellFormed_of_checked (before .badCommand)) (before .noInit) hv
  | destroyActive => exact exec_of_destroyActive hv
  | badVariant => exact exec_of_badVariant (before .badSlot) (before .doubleOpen) hv
  | badMask => exact exec_of_badMask (before .noInit) (before .noActive) hv
  | activeChanged => cases hv

/-- The state after a violation, field by field (R230). -/
theorem State.violate_eq (s : State) (v : Violation) :
    s.violate v =
      { s with viol := s.viol.or (some v), res := 0xFFFFFFFF#32
               env := { s.env with ports := s.env.ports ++ [.warn v] } } := by
  have hviol : recordViolation s.viol v = s.viol.or (some v) := by cases s.viol <;> rfl
  rw [← hviol]
  rfl

/-- Settles O11: the first failing check is raised, and `violate` changes VIOL, RES and the ports. -/
theorem firstViolationRaised : Obligations.FirstViolationRaised := by
  intro i s v h
  rw [exec_of_firstViolation h, State.violate_eq]

end Sys2Proof.Machine
end

section
/-! Instances are private (R251, R273): a command on the active instance leaves the other slots alone. -/

namespace Sys2Proof.Machine

/-- No slot but `a` differs between `s` and `t`. -/
def SameOutside (a : Slot) (s t : State) : Prop := ∀ b, b ≠ a → t.slot b = s.slot b

theorem SameOutside.setSlot (s : State) (a : Slot) (o : Option Instance) : SameOutside a s (s.setSlot a o) :=
  fun _ hb => s.setSlot_slot_ne o hb.symm

/-- A command that writes no field of an instance leaves every slot alone. -/
theorem OwnWrites.sameOutside {i : Instr} {s t : State} (h : OwnWrites i s t) (hi : ∀ j : Instance, j.without i = j)
    (a : Slot) : SameOutside a s t :=
  fun b _ => by simpa [hi] using h.slots b

section
variable {s : State} {a : Slot} (ha : s.active = some a)
include ha

theorem sameOutside_commonChecks {k : Slot → Out} (hk : Ends True (k a) (SameOutside a s)) :
    Ends True (commonChecks s k) (SameOutside a s) :=
  ends_commonChecks (fun _ _ _ => rfl) (fun _ _ _ => rfl) fun b hb => by
    obtain rfl : a = b := by simpa [ha] using hb
    exact hk

/-- A configuration command writes the active slot (R140 to R143). -/
theorem sameOutside_configure (f : Instance → Instance) : Ends True (configure s f) (SameOutside a s) :=
  ends_withActive (.inl trivial) fun b i hb _ => by
    obtain rfl : a = b := by simpa [ha] using hb
    exact SameOutside.setSlot s a _

/-- CLOSE saves into the active slot (R103). -/
theorem sameOutside_close : Ends True (execClose s) (SameOutside a s) :=
  sameOutside_commonChecks ha <| ends_doClose (.inl trivial) fun b i c hb _ _ => by
    obtain rfl : a = b := by simpa [ha] using hb
    exact SameOutside.setSlot s a _

theorem exec_sameOutside {i : Instr} (hi : needsActive i = true) (hq : s.quiet = true) :
    Ends True (exec i s) (SameOutside a s) := by
  have hown : Ends True (exec i s) (OwnWrites i s) :=
    exec_ownWrites (.inl trivial) hq (by rintro b v rfl; cases hi) (by rintro rfl; cases hi)
  cases i with
  | close => exact sameOutside_close ha
  | mapRange buffer start stop kinds => exact sameOutside_commonChecks ha (sameOutside_configure ha _)
  | setMask mask =>
    refine sameOutside_commonChecks ha ?_
    split
    · exact sameOutside_configure ha _
    · exact fun _ _ => rfl
  | setCb sel handler =>
    simp only [exec, execSetCb]
    split
    · exact fun _ _ => rfl
    · exact sameOutside_commonChecks ha (sameOutside_configure ha _)
  | setRemap index value => exact sameOutside_commonChecks ha (sameOutside_configure ha _)
  | create | destroy | openSlot | getActive | setIrqx | newFrame | getCur | getSaved | scan => cases hi
  | _ => exact hown.mono fun t ht => ht.sameOutside (fun _ => rfl) a

end

/-- Settles O58: CLOSE and the configuration commands write the active slot alone, the other commands on the active
instance no slot (`OwnWrites`). -/
theorem otherInstancesUntouched : Obligations.OtherInstancesUntouched :=
  fun _ _ t _ hi ha hq h => ends_true_iff.1 (exec_sameOutside ha hi hq) t h

end Sys2Proof.Machine
end
